-- ==== Sys2Proof/Word.lean ====
section
/-! DEFINITION. The words of P2RTC: bytes of the bus and of the device, 16-bit operands and result slots,
the 120-bit host command word and the 16-bit bus frame. All values are unsigned (00_scope.md R8). -/

namespace Sys2Proof

/-- One byte: a register of the device, a command byte, a data byte (00_scope.md R6, R8). -/
abbrev Byte := BitVec 8

/-- A host operand, a result slot, the status word (`OPW`, 00_scope.md R7; 10_state.md R28, R29). -/
abbrev Half := BitVec 16

/-- The host command word (`CMDW`, 00_scope.md R7; 30_encoding.md R95). -/
abbrev CmdWord := BitVec 120

/-- A bus frame written as one value, `{dat[7:0], cmd[7:0]}` (30_encoding.md R90). -/
abbrev Frame := BitVec 16

end Sys2Proof
end

