-- ==== Sys2Proof/Syntax.lean ====
section
/-! DEFINITION. The instructions: one constructor per row of spec/opcode_table.json, 29 host operations (format H,
30_encoding.md R100) and 20 bus commands (format B, R92). -/

namespace Sys2Proof

/-- An instruction. Register addresses and bytes that go on the wire unchanged are `u8`, field values and slot
indices `u16` (30_encoding.md R96, D4). -/
inductive Instr where
  -- Serial Bus Driver, internal (R121, R122)
  | txb (value : Byte)
  | rxb
  -- Register Access Layer (R131, R132 internal, R133)
  | rdreg (addr : Byte)
  | wrreg (addr value : Byte)
  | wrprot (addr value : Byte)
  -- BCD codec (R141, R142)
  | d2b (n : Byte)
  | b2d (b : Byte)
  -- per-field get (R151 to R157)
  | getSec
  | getMin
  | getHr
  | getDay
  | getMon
  | getWday
  | getYr
  -- per-field set (R158 to R164)
  | setSec (v : Half)
  | setMin (v : Half)
  | setHr (v : Half)
  | setDay (v : Half)
  | setMon (v : Half)
  | setWday (v : Half)
  | setYr (v : Half)
  -- oscillator control (R181, R182)
  | start
  | stop
  -- whole-snapshot operations (R190 to R193)
  | getdt
  | setdt (year month day weekday hour minute second : Half)
  | getdtA
  | setdtA (year month day weekday hour minute second : Half)
  -- RAM access (R201, R202)
  | getram (slot : Half)
  | setram (slot : Half) (value : Byte)
  -- bus commands of the device (R225 to R244); `d` is the data byte of a write frame
  | wrSec (d : Byte)
  | rdSec
  | wrMin (d : Byte)
  | rdMin
  | wrHr (d : Byte)
  | rdHr
  | wrDay (d : Byte)
  | rdDay
  | wrMon (d : Byte)
  | rdMon
  | wrWday (d : Byte)
  | rdWday
  | wrYr (d : Byte)
  | rdYr
  | wrWp (d : Byte)
  | rdWp
  | wrCtl (d : Byte)
  | rdCtl
  | wrRam (s : BitVec 5) (d : Byte)
  | rdRam (s : BitVec 5)
  deriving DecidableEq, Repr

end Sys2Proof
end

