-- ==== Sys2Proof/WellFormed.lean ====
section
/-! DEFINITION. Which instruction terms stand for an encoding. Every operand field has exactly its encoded width, so
the one check left is the slot number of the RAM bus commands (47_device_target.md R243, R244). -/

namespace Sys2Proof

/-- `s = 31` (command bytes 0xFE and 0xFF) is no RAM command: it is unmapped (30_encoding.md R93). -/
def slotEncodable (s : BitVec 5) : Bool := s != 31#5

/-- The instruction has an encoding. -/
def Instr.wellFormed : Instr → Bool
  | .wrRam s _ => slotEncodable s
  | .rdRam s   => slotEncodable s
  | _ => true

end Sys2Proof
end

