-- ==== Sys2Proof/Decode.lean ====
section
/-! DEFINITION. Decoding and encoding of both formats: the host command word (30_encoding.md R95 to R102) and the bus
frame (R90 to R93). Decoding is total and rejects by name; the encoder stands after it. -/

namespace Sys2Proof

/-- Why a word is no instruction. -/
inductive Reject where
  /-- An opcode that R100 does not list (30_encoding.md R102). -/
  | unlistedOpcode
  /-- A must-be-zero bit of R96 is 1 (30_encoding.md R99 step 2). -/
  | mustBeZero
  /-- TXB, RXB or WRREG presented as a host command (30_encoding.md R101). -/
  | internalOperation
  /-- GETDT.A or SETDT.A while `HAS_ATOMIC_DT` is false (30_encoding.md R99 step 1). -/
  | absentOption
  /-- A command byte outside the map of R92 (30_encoding.md R93). -/
  | unmappedCommand
  /-- A length that is neither format's (30_encoding.md R104). -/
  | wrongLength
  deriving DecidableEq, Repr

/-- The encoded form of an instruction: a host command word or a bus frame. -/
inductive Code where
  | host (w : CmdWord)
  | bus (f : Frame)
  deriving DecidableEq, Repr

/-! ### Format H -/

/-- The opcode, `w[7:0]` (30_encoding.md R95). -/
def opcodeOf (w : CmdWord) : Byte := w.extractLsb' 0 8

/-- Operand `ai`, `w[23+16i : 8+16i]` (30_encoding.md R95). -/
def operandOf (w : CmdWord) (i : Nat) : Half := w.extractLsb' (8 + 16 * i) 16

/-- The low byte of operand `ai`: the value of a `u8` operand (30_encoding.md R95, R96). -/
def byteOperandOf (w : CmdWord) (i : Nat) : Byte := w.extractLsb' (8 + 16 * i) 8

/-- The upper byte of operand `ai` is zero, as a `u8` operand needs (30_encoding.md R95). -/
def upperByteZero (w : CmdWord) (i : Nat) : Bool := w.extractLsb' (16 + 16 * i) 8 == 0#8

/-- Operands `a<i>` and above are zero, as unused operands must be (30_encoding.md R95). -/
def unusedFrom (w : CmdWord) (i : Nat) : Bool := w.extractLsb' (8 + 16 * i) (112 - 16 * i) == 0#(112 - 16 * i)

/-- The instruction, if the word's must-be-zero bits are 0 (30_encoding.md R99 step 2). -/
def checkZero (ok : Bool) (i : Instr) : Except Reject Instr := if ok then .ok i else .error .mustBeZero

/-- A word as a row of the operation table, internal operations among them: the opcode of R100 and the must-be-zero
bits of R96. Which operations a host may issue is `hostDecode`. -/
def decodeOp (w : CmdWord) : Except Reject Instr :=
  match opcodeOf w with
  | 0x01#8 => checkZero (upperByteZero w 0 && unusedFrom w 1) (.txb (byteOperandOf w 0))
  | 0x02#8 => checkZero (unusedFrom w 0) .rxb
  | 0x10#8 => checkZero (upperByteZero w 0 && unusedFrom w 1) (.rdreg (byteOperandOf w 0))
  | 0x11#8 => checkZero (upperByteZero w 0 && upperByteZero w 1 && unusedFrom w 2)
                (.wrreg (byteOperandOf w 0) (byteOperandOf w 1))
  | 0x12#8 => checkZero (upperByteZero w 0 && upperByteZero w 1 && unusedFrom w 2)
                (.wrprot (byteOperandOf w 0) (byteOperandOf w 1))
  | 0x20#8 => checkZero (upperByteZero w 0 && unusedFrom w 1) (.d2b (byteOperandOf w 0))
  | 0x21#8 => checkZero (upperByteZero w 0 && unusedFrom w 1) (.b2d (byteOperandOf w 0))
  | 0x30#8 => checkZero (unusedFrom w 0) .getSec
  | 0x31#8 => checkZero (unusedFrom w 0) .getMin
  | 0x32#8 => checkZero (unusedFrom w 0) .getHr
  | 0x33#8 => checkZero (unusedFrom w 0) .getDay
  | 0x34#8 => checkZero (unusedFrom w 0) .getMon
  | 0x35#8 => checkZero (unusedFrom w 0) .getWday
  | 0x36#8 => checkZero (unusedFrom w 0) .getYr
  | 0x40#8 => checkZero (unusedFrom w 1) (.setSec (operandOf w 0))
  | 0x41#8 => checkZero (unusedFrom w 1) (.setMin (operandOf w 0))
  | 0x42#8 => checkZero (unusedFrom w 1) (.setHr (operandOf w 0))
  | 0x43#8 => checkZero (unusedFrom w 1) (.setDay (operandOf w 0))
  | 0x44#8 => checkZero (unusedFrom w 1) (.setMon (operandOf w 0))
  | 0x45#8 => checkZero (unusedFrom w 1) (.setWday (operandOf w 0))
  | 0x46#8 => checkZero (unusedFrom w 1) (.setYr (operandOf w 0))
  | 0x50#8 => checkZero (unusedFrom w 0) .start
  | 0x51#8 => checkZero (unusedFrom w 0) .stop
  | 0x60#8 => checkZero (unusedFrom w 0) .getdt
  | 0x61#8 => .ok (.setdt (operandOf w 0) (operandOf w 1) (operandOf w 2) (operandOf w 3) (operandOf w 4)
                (operandOf w 5) (operandOf w 6))
  | 0x62#8 => checkZero (unusedFrom w 0) .getdtA
  | 0x63#8 => .ok (.setdtA (operandOf w 0) (operandOf w 1) (operandOf w 2) (operandOf w 3) (operandOf w 4)
                (operandOf w 5) (operandOf w 6))
  | 0x70#8 => checkZero (unusedFrom w 1) (.getram (operandOf w 0))
  | 0x71#8 => checkZero (upperByteZero w 1 && unusedFrom w 2) (.setram (operandOf w 0) (byteOperandOf w 1))
  | _ => .error .unlistedOpcode

/-- The internal operations, which are not host-issuable (30_encoding.md R101). -/
def Instr.isInternal : Instr → Bool
  | .txb _ => true
  | .rxb => true
  | .wrreg _ _ => true
  | _ => false

/-- The operations that exist only if `HAS_ATOMIC_DT` (30_encoding.md R100; 45_snapshot.md R192, R193). -/
def Instr.isOptional : Instr → Bool
  | .getdtA => true
  | .setdtA _ _ _ _ _ _ _ => true
  | _ => false

/-- Decoding a host command word (30_encoding.md R99): a row of the table, not internal, and not an absent option. -/
def hostDecode (hasAtomicDT : Bool) (w : CmdWord) : Except Reject Instr :=
  match decodeOp w with
  | .error r => .error r
  | .ok i =>
    if i.isInternal then .error .internalOperation
    else if i.isOptional && !hasAtomicDT then .error .absentOption
    else .ok i

/-! ### Format B -/

/-- The command byte of a frame, its first eight bit periods (30_encoding.md R90). -/
def commandByteOf (f : Frame) : Byte := f.extractLsb' 0 8

/-- The data byte of a frame, its last eight bit periods (30_encoding.md R90). -/
def dataByteOf (f : Frame) : Byte := f.extractLsb' 8 8

/-- A command byte with bit 7 and bit 6 set as a RAM command: the slot is `c[5:1]`, the direction bit 0, and slot 31
is unmapped (30_encoding.md R92, R93). -/
def decodeRamCommand (c d : Byte) : Except Reject Instr :=
  let s : BitVec 5 := c.extractLsb' 1 5
  if c.extractLsb' 6 2 == 3#2 && slotEncodable s then
    if c.getLsbD 0 then .ok (.rdRam s) else .ok (.wrRam s d)
  else .error .unmappedCommand

/-- Decoding a bus frame by a whole-byte match of its command byte (30_encoding.md R91, R92). The data byte of a read
frame is the device's answer and no part of the command. -/
def decodeFrame (f : Frame) : Except Reject Instr :=
  let d := dataByteOf f
  match commandByteOf f with
  | 0x80#8 => .ok (.wrSec d)
  | 0x81#8 => .ok .rdSec
  | 0x82#8 => .ok (.wrMin d)
  | 0x83#8 => .ok .rdMin
  | 0x84#8 => .ok (.wrHr d)
  | 0x85#8 => .ok .rdHr
  | 0x86#8 => .ok (.wrDay d)
  | 0x87#8 => .ok .rdDay
  | 0x88#8 => .ok (.wrMon d)
  | 0x89#8 => .ok .rdMon
  | 0x8A#8 => .ok (.wrWday d)
  | 0x8B#8 => .ok .rdWday
  | 0x8C#8 => .ok (.wrYr d)
  | 0x8D#8 => .ok .rdYr
  | 0x8E#8 => .ok (.wrWp d)
  | 0x8F#8 => .ok .rdWp
  | 0x90#8 => .ok (.wrCtl d)
  | 0x91#8 => .ok .rdCtl
  | c => decodeRamCommand c d

/-- Decoding of either format. -/
def decode : Code → Except Reject Instr
  | .host w => decodeOp w
  | .bus f => decodeFrame f

/-! ### The encoder -/

/-- A host command word from its opcode and its seven operand fields (30_encoding.md R95). -/
def hostWord (op : Byte) (a0 a1 a2 a3 a4 a5 a6 : Half) : CmdWord :=
  op.setWidth 120 ||| (a0.setWidth 120 <<< 8) ||| (a1.setWidth 120 <<< 24) ||| (a2.setWidth 120 <<< 40)
    ||| (a3.setWidth 120 <<< 56) ||| (a4.setWidth 120 <<< 72) ||| (a5.setWidth 120 <<< 88) ||| (a6.setWidth 120 <<< 104)

/-- A word without operands. -/
def word0 (op : Byte) : CmdWord := hostWord op 0#16 0#16 0#16 0#16 0#16 0#16 0#16

/-- A word with the operand `a0`. -/
def word1 (op : Byte) (a0 : Half) : CmdWord := hostWord op a0 0#16 0#16 0#16 0#16 0#16 0#16

/-- A word with the operands `a0` and `a1`. -/
def word2 (op : Byte) (a0 a1 : Half) : CmdWord := hostWord op a0 a1 0#16 0#16 0#16 0#16 0#16

/-- A byte carried in an operand field whose upper byte is zero (30_encoding.md R95). -/
def byteField (b : Byte) : Half := b.setWidth 16

/-- A frame from its command byte and its data byte, `{dat, cmd}` (30_encoding.md R90). -/
def frameOf (c d : Byte) : Frame := c.setWidth 16 ||| (d.setWidth 16 <<< 8)

/-- The command byte of RAM slot `s`, `0b11sssss0` to write and `0b11sssss1` to read (30_encoding.md R92). -/
def ramCommand (s : BitVec 5) (rd : BitVec 1) : Byte := 3#2 ++ s ++ rd

/-- The code of an instruction, from the tables of 30_encoding.md R92, R96 and R100. A read frame is encoded with a zero
data byte: the device sends it. -/
def encode : Instr → Code
  | .txb v => .host (word1 0x01#8 (byteField v))
  | .rxb => .host (word0 0x02#8)
  | .rdreg a => .host (word1 0x10#8 (byteField a))
  | .wrreg a v => .host (word2 0x11#8 (byteField a) (byteField v))
  | .wrprot a v => .host (word2 0x12#8 (byteField a) (byteField v))
  | .d2b n => .host (word1 0x20#8 (byteField n))
  | .b2d b => .host (word1 0x21#8 (byteField b))
  | .getSec => .host (word0 0x30#8)
  | .getMin => .host (word0 0x31#8)
  | .getHr => .host (word0 0x32#8)
  | .getDay => .host (word0 0x33#8)
  | .getMon => .host (word0 0x34#8)
  | .getWday => .host (word0 0x35#8)
  | .getYr => .host (word0 0x36#8)
  | .setSec v => .host (word1 0x40#8 v)
  | .setMin v => .host (word1 0x41#8 v)
  | .setHr v => .host (word1 0x42#8 v)
  | .setDay v => .host (word1 0x43#8 v)
  | .setMon v => .host (word1 0x44#8 v)
  | .setWday v => .host (word1 0x45#8 v)
  | .setYr v => .host (word1 0x46#8 v)
  | .start => .host (word0 0x50#8)
  | .stop => .host (word0 0x51#8)
  | .getdt => .host (word0 0x60#8)
  | .setdt y mo d w h mi s => .host (hostWord 0x61#8 y mo d w h mi s)
  | .getdtA => .host (word0 0x62#8)
  | .setdtA y mo d w h mi s => .host (hostWord 0x63#8 y mo d w h mi s)
  | .getram s => .host (word1 0x70#8 s)
  | .setram s v => .host (word2 0x71#8 s (byteField v))
  | .wrSec d => .bus (frameOf 0x80#8 d)
  | .rdSec => .bus (frameOf 0x81#8 0#8)
  | .wrMin d => .bus (frameOf 0x82#8 d)
  | .rdMin => .bus (frameOf 0x83#8 0#8)
  | .wrHr d => .bus (frameOf 0x84#8 d)
  | .rdHr => .bus (frameOf 0x85#8 0#8)
  | .wrDay d => .bus (frameOf 0x86#8 d)
  | .rdDay => .bus (frameOf 0x87#8 0#8)
  | .wrMon d => .bus (frameOf 0x88#8 d)
  | .rdMon => .bus (frameOf 0x89#8 0#8)
  | .wrWday d => .bus (frameOf 0x8A#8 d)
  | .rdWday => .bus (frameOf 0x8B#8 0#8)
  | .wrYr d => .bus (frameOf 0x8C#8 d)
  | .rdYr => .bus (frameOf 0x8D#8 0#8)
  | .wrWp d => .bus (frameOf 0x8E#8 d)
  | .rdWp => .bus (frameOf 0x8F#8 0#8)
  | .wrCtl d => .bus (frameOf 0x90#8 d)
  | .rdCtl => .bus (frameOf 0x91#8 0#8)
  | .wrRam s d => .bus (frameOf (ramCommand s 0#1) d)
  | .rdRam s => .bus (frameOf (ramCommand s 1#1) 0#8)

/-! ### The opcode table's numbering -/

/-- The code whose bits are `w`, numbered as spec/opcode_table.json numbers them: 120 bits are a host command word;
8 bits are a frame's command byte, whose data byte is then 0; 16 bits are a whole frame `{dat, cmd}`. -/
def codeOfTableWord (nbits w : Nat) : Except Reject Code :=
  if nbits = 120 then .ok (.host (BitVec.ofNat 120 w))
  else if nbits = 8 then .ok (.bus (frameOf (BitVec.ofNat 8 w) 0#8))
  else if nbits = 16 then .ok (.bus (BitVec.ofNat 16 w))
  else .error .wrongLength

/-- The decoder's answer as an option. -/
def instrOf? : Except Reject Instr → Option Instr
  | .ok i => some i
  | .error _ => none

/-- The instruction the decoder reads from a word of the opcode table. An internal operation's word is read as that
operation; presented at the command port the same word is illegal (`hostDecode`). -/
def decodeTableWord (nbits w : Nat) : Option Instr :=
  match codeOfTableWord nbits w with
  | .ok c => instrOf? (decode c)
  | .error _ => none

end Sys2Proof
end

