-- ==== Sys2Proof/Config.lean ====
section
/-! DEFINITION. The free values of the model: constants without a body, so that nothing in Lean can evaluate them.
Each stands for what the spec leaves open to "any value" (93_implementation_defined.md, treatments `any value` and
`parameter`). The parameters whose values a run may choose are plain data, `Machine.Params`. -/

namespace Sys2Proof

/-- The seven calendar registers, the part of the device that `TICK` reads and writes
(10_state.md R41 to R47; 47_device_target.md R245). -/
structure Calendar where
  sec  : Byte
  min  : Byte
  hr   : Byte
  day  : Byte
  mon  : Byte
  wday : Byte
  yr   : Byte
  deriving DecidableEq, Repr, Inhabited

/-- The four date registers, the domain of the further parameter `next_date` (47_device_target.md R247). -/
structure DateRegs where
  day  : Byte
  mon  : Byte
  wday : Byte
  yr   : Byte
  deriving DecidableEq, Repr, Inhabited

/-- The level of DATA at a read of the line while both ends or neither end drive it: any value, per sample
(10_state.md R25, D18, U1, U2). The argument is `State.draws`. FREE VALUE, log entry 7. -/
opaque Config.anyLevel : Nat → Bool

/-- The byte a read of an unmapped odd address returns (47_device_target.md R224, U3) and the byte an irregular
write frame leaves in the addressed register (R219, U11). The argument is `State.draws`. FREE VALUE, log entry 7. -/
opaque Config.anyByte : Nat → Byte

/-- The parameter `tick_next`: any function of the seven bytes (47_device_target.md R246, D17). The constraint
R246 (a) is put on its result where it is used, `Machine.openTick`. FREE VALUE, log entry 5. -/
opaque Config.tickNext : Calendar → Calendar

/-- The parameter `next_date` of the reference instance (47_device_target.md R247, U8): how the date registers
advance at midnight, which no source defines. FREE VALUE, log entry 5. -/
opaque Config.nextDate : DateRegs → DateRegs

end Sys2Proof
end

