-- ==== Sys2Proof/Machine/State.lean ====
section
/-! DEFINITION. The state of the machine (10_state.md R20): the controller's lines, response and sequencer position, the
device's register file, RAM and bus-slave state; beside them the model's own fields (parameters, the schedule of TICK,
the draw counter, the environment's inputs), each with an entry of the assumption log. -/

namespace Sys2Proof.Machine

/-- Why a step stops with a fault. The spec has none: "No behaviour of this hardware is fault or stuck"
(93_implementation_defined.md; 60_exceptions.md R252), so no constructor exists and nothing raises one (safe). -/
inductive Fault where
  deriving DecidableEq, Repr

/-- Why a step has no meaning. -/
inductive Refusal where
  /-- Raised by an arm of `exec` whose instruction has no meaning yet; safe, nothing can be proved of it. -/
  | notModelled (mnemonic : String)
  /-- Raised by RDREG with an even address: outside the contract, "a model gives such a frame no meaning: it refuses
  it" (20_memory.md R64, U5). Safe. -/
  | readFromWriteAddress
  /-- Raised by WRREG and WRPROT with an odd address: outside the contract (20_memory.md R64, U5). Safe. -/
  | writeToReadAddress
  /-- Raised by the device when a write frame addresses an unmapped byte: "the model refuses"
  (47_device_target.md R224, U4). Safe. -/
  | unmappedWrite
  deriving DecidableEq, Repr

/-- The direction of the controller's DATA pin (10_state.md R23): `input` is the spec's `in`, `output` its `out`. -/
inductive Dir where
  | input
  | output
  deriving DecidableEq, Repr

/-- A line event, the smallest step of the controller (00_scope.md R11). -/
inductive LineEvent where
  /-- `CS <- b` -/
  | cs (b : Bool)
  /-- `CLK <- b` -/
  | clk (b : Bool)
  /-- `DIR <- d` -/
  | dir (d : Dir)
  /-- `DOUT <- b` -/
  | dout (b : Bool)
  /-- `sample()` -/
  | sample
  deriving DecidableEq, Repr

/-- The seven result slots `RES[0..6]` (10_state.md R28). -/
structure Results where
  r0 : Half
  r1 : Half
  r2 : Half
  r3 : Half
  r4 : Half
  r5 : Half
  r6 : Half
  deriving DecidableEq, Repr

/-- The response of a command (30_encoding.md R98). -/
structure Response where
  res    : Results
  status : Half
  deriving DecidableEq, Repr

/-- The sequencer position (10_state.md R30). Frame, byte, bit and phase follow from the number of line events done;
what each event returned to the controller (the level, for a `sample()`) is kept, since GETDT.A's sequence depends on
it (45_snapshot.md R193). -/
inductive SeqPos where
  | idle
  /-- Command `i` is being executed; `done` holds what its line events so far returned, oldest first. -/
  | running (i : Instr) (done : List Bool)
  deriving DecidableEq, Repr

/-- Which instance of the parameter `tick_next` the device has (00_scope.md R7). -/
inductive TickNext where
  /-- Any function within the constraints of 47_device_target.md R246. -/
  | anyFunction
  /-- The reference instance of 47_device_target.md R247. -/
  | reference
  deriving DecidableEq, Repr

/-- What the three lines lead to (60_exceptions.md R252: operations end "whether or not a device is attached", and "the
only effect of a bad bus is on the values of draws"; 93_implementation_defined.md U2). -/
inductive Link where
  /-- A device, and every level it drives arrives at the controller. -/
  | attached
  /-- A device on a bad bus: the levels it drives arrive as any value. -/
  | badBus
  /-- No device: nothing reacts to the lines, and nothing but the controller drives DATA. -/
  | absent
  deriving DecidableEq, Repr

/-- The open parameters of 00_scope.md R7 that are plain data, and what the lines lead to (log entry 20). No step changes
them (10_state.md R53). -/
structure Params where
  hasAtomicDT    : Bool
  atomicRetryMax : Nat
  tickNext       : TickNext
  link           : Link
  deriving DecidableEq, Repr

/-- What the environment does next; the machine takes one input at a time, between commands or, for `tick` and `reset`,
between two line events (10_state.md R26, 30_encoding.md R97). -/
inductive Input where
  /-- The host presents a command word; one step runs it to its last line event (30_encoding.md R97). -/
  | host (w : CmdWord)
  /-- The host presents a command word and every further step is one line event of it (10_state.md R30). -/
  | hostByLine (w : CmdWord)
  /-- An operation of the table taken alone, internal ones among them (30_encoding.md R101): not a host's move. -/
  | internal (w : CmdWord)
  /-- A frame applied to the device alone (95_test_vectors.md section 2.9). -/
  | frame (f : Frame)
  /-- One step of the device's timekeeping (47_device_target.md R245). -/
  | tick
  /-- The controller's reset input (70_reset_and_hazards.md R280, R281). -/
  | reset
  deriving DecidableEq, Repr

/-- The register file of the device (10_state.md R40 to R50). -/
structure RegFile where
  /-- `DEV.REG[0..6]`, the calendar registers (R41 to R47). -/
  cal : Calendar
  /-- `DEV.REG[7]`: bit 7 is the write-protect latch (R48). -/
  wp  : Byte
  /-- `DEV.REG[8]`, plain storage (R49). -/
  ctl : Byte
  /-- `DEV.RAM[0..30]` (R50) as (slot, byte) cells in canonical form; a slot that is not listed holds 0. -/
  ram : List Host.Cell
  deriving DecidableEq, Repr

/-- The bus-slave state of the device (10_state.md R51). -/
structure BusSlave where
  /-- Rising edges of CLK since CS last rose, 0 to 16. -/
  cnt  : Nat
  /-- The command byte being assembled. -/
  cmd  : Byte
  /-- The write data byte being assembled. -/
  wsh  : Byte
  /-- The byte latched for a read. -/
  rlat : Byte
  /-- The device drives DATA. -/
  drv  : Bool
  /-- The level it drives. -/
  dbit : Bool
  deriving DecidableEq, Repr

/-- The whole machine. -/
structure State where
  /-- `CS`, 1 = asserted (10_state.md R21). -/
  cs     : Bool
  /-- `CLK` (10_state.md R22). -/
  clk    : Bool
  /-- `DIR` (10_state.md R23). -/
  dir    : Dir
  /-- `DOUT` (10_state.md R24). -/
  dout   : Bool
  /-- `RES[0..6]` (10_state.md R28). -/
  res    : Results
  /-- `STATUS` (10_state.md R29). -/
  status : Half
  /-- The sequencer position (10_state.md R30). -/
  seq    : SeqPos
  /-- The device's register file (10_state.md R40 to R50). -/
  regs   : RegFile
  /-- The device's bus-slave state (10_state.md R51). It reacts to the lines unless `par.link` is `absent`. -/
  bus    : BusSlave
  /-- The open parameters; the model's own field. -/
  par    : Params
  /-- How many TICK steps fall before each coming frame; the model's own field (47_device_target.md R245, U9). -/
  ticks  : List Nat
  /-- How many draws were made so far, the index of the next free value; the model's own field. -/
  draws  : Nat
  /-- What the environment does next; the model's own field. -/
  inbox  : List Input
  deriving DecidableEq, Repr

/-- All result slots 0. -/
def Results.zero : Results := { r0 := 0#16, r1 := 0#16, r2 := 0#16, r3 := 0#16, r4 := 0#16, r5 := 0#16, r6 := 0#16 }

/-- The register file as the model starts it. The spec leaves every value open (`DEV_POWERUP`, 10_state.md R54).
DESIGN CHOICE, unsafe: zeros, log entries 1 and 2. -/
def RegFile.powerUp : RegFile where
  cal := { sec := 0#8, min := 0#8, hr := 0#8, day := 0#8, mon := 0#8, wday := 0#8, yr := 0#8 }
  wp  := 0#8
  ctl := 0#8
  ram := []

/-- The bus slave as the model starts it: `cnt` and `drv` are 0 while CS = 0 (10_state.md R51). DESIGN CHOICE: the
don't-care bytes are zeros, log entry 3. -/
def BusSlave.powerUp : BusSlave where
  cnt  := 0
  cmd  := 0#8
  wsh  := 0#8
  rlat := 0#8
  drv  := false
  dbit := false

/-- The machine after reset (10_state.md R54). The controller's values are the spec's; the device's and the model's own
fields are log entries 1 to 8 and 20. -/
def State.reset : State where
  cs     := false
  clk    := false
  dir    := .input
  dout   := false
  res    := Results.zero
  status := 0#16
  seq    := .idle
  regs   := RegFile.powerUp
  bus    := BusSlave.powerUp
  par    := { hasAtomicDT := true, atomicRetryMax := 0, tickNext := .anyFunction, link := .attached }
  ticks  := []
  draws  := 0
  inbox  := []

end Sys2Proof.Machine
end

