-- ==== Sys2Proof/Machine/Operands.lean ====
section
/-! DEFINITION. Operand forms: the address map of the device, the field table, the BCD formulas, the RAM address
formula, and the bit helpers of a byte. -/

namespace Sys2Proof.Machine

/-! ### Bits -/

/-- Bit `i` of a byte, bit 0 least significant (00_scope.md R8). -/
def bitOf (v : Byte) (i : Nat) : Bool := v.getLsbD i

/-- The byte with bit `i` set to `b`, the others unchanged: `v[i] <- b`. -/
def setBit (v : Byte) (i : Nat) (b : Bool) : Byte :=
  if b then v ||| (1#8 <<< i) else v &&& ~~~(1#8 <<< i)

/-- `zext_16` of a byte (00_scope.md R8). -/
def zext16 (v : Byte) : Half := v.setWidth 16

/-! ### The address map (20_memory.md R61, 10_state.md R40) -/

/-- The nine named registers `DEV.REG[0..8]` (10_state.md R40). -/
inductive Reg where
  | sec | min | hr | day | mon | wday | yr | wp | ctl
  deriving DecidableEq, Repr

/-- What a mapped address names: a named register or a RAM slot. -/
inductive Place where
  | reg (r : Reg)
  | ram (s : Nat)
  deriving DecidableEq, Repr

/-- The write address of a named register, `0x80 + 2k` (10_state.md R40). -/
def regWriteAddr : Reg → Byte
  | .sec => 0x80#8
  | .min => 0x82#8
  | .hr => 0x84#8
  | .day => 0x86#8
  | .mon => 0x88#8
  | .wday => 0x8A#8
  | .yr => 0x8C#8
  | .wp => 0x8E#8
  | .ctl => 0x90#8

/-- The read address of a named register, its write address plus 1 (10_state.md R40). -/
def regReadAddr : Reg → Byte
  | .sec => 0x81#8
  | .min => 0x83#8
  | .hr => 0x85#8
  | .day => 0x87#8
  | .mon => 0x89#8
  | .wday => 0x8B#8
  | .yr => 0x8D#8
  | .wp => 0x8F#8
  | .ctl => 0x91#8

/-- The place a write address names; `none` for an odd or unmapped address (20_memory.md R61, 47_device_target.md R221). -/
def writePlace (a : Byte) : Option Place :=
  match a with
  | 0x80#8 => some (.reg .sec)
  | 0x82#8 => some (.reg .min)
  | 0x84#8 => some (.reg .hr)
  | 0x86#8 => some (.reg .day)
  | 0x88#8 => some (.reg .mon)
  | 0x8A#8 => some (.reg .wday)
  | 0x8C#8 => some (.reg .yr)
  | 0x8E#8 => some (.reg .wp)
  | 0x90#8 => some (.reg .ctl)
  | a => if 0xC0 ≤ a.toNat ∧ a.toNat ≤ 0xFC ∧ a.toNat % 2 = 0 then some (.ram ((a.toNat - 0xC0) / 2)) else none

/-- The place a read address names; `none` for an even or unmapped address (20_memory.md R61, 47_device_target.md R220). -/
def readPlace (a : Byte) : Option Place :=
  match a with
  | 0x81#8 => some (.reg .sec)
  | 0x83#8 => some (.reg .min)
  | 0x85#8 => some (.reg .hr)
  | 0x87#8 => some (.reg .day)
  | 0x89#8 => some (.reg .mon)
  | 0x8B#8 => some (.reg .wday)
  | 0x8D#8 => some (.reg .yr)
  | 0x8F#8 => some (.reg .wp)
  | 0x91#8 => some (.reg .ctl)
  | a => if 0xC1 ≤ a.toNat ∧ a.toNat ≤ 0xFD ∧ a.toNat % 2 = 1 then some (.ram ((a.toNat - 0xC1) / 2)) else none

/-- `WP_UNLOCK` and `WP_LOCK`, the data bytes of the write-protect bracket (00_scope.md R6). -/
def wpUnlock : Byte := 0x00#8

@[inherit_doc wpUnlock]
def wpLock : Byte := 0x80#8

/-! ### BCD (42_bcd_codec.md) -/

/-- `decimalToBcd(n) = (n / 10) * 16 + (n % 10)` (42_bcd_codec.md R141). -/
def decimalToBcd (n : Nat) : Nat := n / 10 * 16 + n % 10

/-- `bcdToDecimal(b) = (b / 16) * 10 + (b % 16)` (42_bcd_codec.md R142). -/
def bcdToDecimal (b : Nat) : Nat := b / 16 * 10 + b % 16

/-! ### The calendar fields (43_calendar_fields.md R150) -/

/-- The seven calendar fields, in the order of the field index `f`. -/
inductive Field where
  | second | minute | hour | day | month | weekday | year
  deriving DecidableEq, Repr

/-- The register of a field: register index = field index (43_calendar_fields.md R150). -/
def fieldReg : Field → Reg
  | .second => .sec
  | .minute => .min
  | .hour => .hr
  | .day => .day
  | .month => .mon
  | .weekday => .wday
  | .year => .yr

/-- `MOD[f]`, the set-modulus (00_scope.md R6, 43_calendar_fields.md R150). -/
def fieldMod : Field → Nat
  | .second => 60
  | .minute => 60
  | .hour => 24
  | .day => 32
  | .month => 13
  | .weekday => 8
  | .year => 100

/-- `MAX[f]`, the valid decoded maximum (43_calendar_fields.md R150, 60_exceptions.md R251). -/
def fieldMax : Field → Nat
  | .second => 59
  | .minute => 59
  | .hour => 23
  | .day => 31
  | .month => 12
  | .weekday => 7
  | .year => 99

/-- The get post-step: `% 60` for the second, `+ 2000` for the year, none otherwise (43_calendar_fields.md R150). -/
def fieldPost (f : Field) (d : Nat) : Nat :=
  match f with
  | .second => d % 60
  | .year => d + 2000
  | _ => d

/-- The value a get of field `f` returns for the raw byte `b` (43_calendar_fields.md R150). -/
def fieldValue (f : Field) (b : Byte) : Half := BitVec.ofNat 16 (fieldPost f (bcdToDecimal b.toNat))

/-- The data byte a set of field `f` writes for the operand `v`, `decimalToBcd(v % MOD[f])` (43_calendar_fields.md R150). -/
def fieldByte (f : Field) (v : Half) : Byte := BitVec.ofNat 8 (decimalToBcd (v.toNat % fieldMod f))

/-! ### RAM slots (46_ram.md R200) -/

/-- The cell a slot operand names: `slot % 31`. -/
def ramSlot (slot : Half) : Nat := slot.toNat % 31

/-- `ram_waddr(slot) = 0xC0 + (slot % 31) * 2` (46_ram.md R200). -/
def ramWriteAddr (slot : Half) : Byte := BitVec.ofNat 8 (0xC0 + ramSlot slot * 2)

/-- `ram_raddr(slot) = 0xC0 + (slot % 31) * 2 + 1` (46_ram.md R200). -/
def ramReadAddr (slot : Half) : Byte := BitVec.ofNat 8 (0xC0 + ramSlot slot * 2 + 1)

end Sys2Proof.Machine
end

