-- ==== Sys2Proof/Machine/Flags.lean ====
section
/-! DEFINITION. Flags: the decode-error check, the packing of STATUS and the readers of its bits, and the responses of
the commands (10_state.md R28, R29; 60_exceptions.md R250 to R253). -/

namespace Sys2Proof.Machine

/-- `bcd_valid(b)`: no nibble above 9 (42_bcd_codec.md R140). -/
def bcdValid (b : Byte) : Bool := b.toNat / 16 ≤ 9 && b.toNat % 16 ≤ 9

/-- `decode_err(f, b)`: a nibble above 9, or the decoded value above `MAX[f]`, tested before the post-step
(60_exceptions.md R251). -/
def decodeErr (f : Field) (b : Byte) : Bool := !bcdValid b || bcdToDecimal b.toNat > fieldMax f

/-- STATUS from its fields: `DERR` in bits 6:0, `TORN` in bit 7, `ILL` in bit 8, 15:9 always 0 (10_state.md R29). -/
def packStatus (derr : BitVec 7) (torn ill : Bool) : Half :=
  0#7 ++ BitVec.ofBool ill ++ BitVec.ofBool torn ++ derr

/-- `DERR[6:0]` from its seven bits, bit 0 first (10_state.md R29). -/
def packDerr (e0 e1 e2 e3 e4 e5 e6 : Bool) : BitVec 7 :=
  BitVec.ofBool e6 ++ BitVec.ofBool e5 ++ BitVec.ofBool e4 ++ BitVec.ofBool e3 ++ BitVec.ofBool e2 ++ BitVec.ofBool e1
    ++ BitVec.ofBool e0

/-- `DERR[i]` of a status word. -/
def statusDerr (w : Half) (i : Nat) : Bool := i < 7 && w.getLsbD i

/-- `TORN` of a status word. -/
def statusTorn (w : Half) : Bool := w.getLsbD 7

/-- `ILL` of a status word. -/
def statusIll (w : Half) : Bool := w.getLsbD 8

/-- Results with `RES[0]` alone filled; the slots a command does not fill are 0 (10_state.md R28). -/
def oneResult (v : Half) : Results := { Results.zero with r0 := v }

/-- The response of an operation without a result (30_encoding.md R98). -/
def noResult : Response := { res := Results.zero, status := 0#16 }

/-- The response of an operation with one result and no flag. -/
def valueResult (v : Half) : Response := { res := oneResult v, status := 0#16 }

/-- The response of a single get: the value in `RES[0]`, its decode-error bit in `DERR[0]` (43_calendar_fields.md R150). -/
def getResult (v : Half) (err : Bool) : Response :=
  { res := oneResult v, status := packStatus (packDerr err false false false false false false) false false }

/-- The response of a refused command: `RES <- 0`, `STATUS <- 0x0100` (60_exceptions.md R253). -/
def illegalResult : Response := { res := Results.zero, status := packStatus 0#7 false true }

end Sys2Proof.Machine
end

