-- ==== Sys2Proof/Machine/Ops.lean ====
section
/-! DEFINITION. The named operations over memory, registers and lines: the RAM cells, the register file (DevRead,
DevWrite), TICK, the line events with the device's reactions, the controller as a generator of line events, the
response, the refused command and the controller reset.

No exception, interrupt or trap exists in this hardware (60_exceptions.md R255 to R259): nothing diverts control, saves
state or returns. What stands in their place is the refused command, `refuseCommand` (R253). -/

namespace Sys2Proof.Machine

/-! ### RAM cells (10_state.md R50) -/

/-- The number of RAM slots, `RAM_SLOTS` (00_scope.md R6). -/
def ramSlots : Nat := 31

/-- What a slot that is not listed holds. DESIGN CHOICE, unsafe: 0, log entry 2 (the spec leaves power-up contents open,
47_device_target.md R249). -/
def Memory.unlisted : Byte := 0#8

/-- The byte of slot `a`. -/
def Memory.read : List Host.Cell → Nat → Byte
  | [], _ => Memory.unlisted
  | (k, v) :: rest, a => if k = a then v else Memory.read rest a

/-- The cells with slot `a` holding `v`, in canonical form. -/
def Memory.write : List Host.Cell → Nat → Byte → List Host.Cell
  | [], a, v => if v = Memory.unlisted then [] else [(a, v)]
  | (k, w) :: rest, a, v =>
    if a < k then if v = Memory.unlisted then (k, w) :: rest else (a, v) :: (k, w) :: rest
    else if a = k then if v = Memory.unlisted then rest else (a, v) :: rest
    else (k, w) :: Memory.write rest a v

/-- The canonical form from slot `lo` on: slots strictly rising, each below 31, no cell equal to an unlisted one. -/
def Memory.wfFrom : Nat → List Host.Cell → Bool
  | _, [] => true
  | lo, (k, v) :: rest => decide (lo ≤ k) && decide (k < ramSlots) && v != Memory.unlisted && Memory.wfFrom (k + 1) rest

/-- The canonical form of the RAM cells. -/
def Memory.wf (m : List Host.Cell) : Bool := Memory.wfFrom 0 m

/-! ### The register file (47_device_target.md part 2) -/

/-- The byte a named register holds (10_state.md R40). -/
def regRead (d : RegFile) : Reg → Byte
  | .sec => d.cal.sec
  | .min => d.cal.min
  | .hr => d.cal.hr
  | .day => d.cal.day
  | .mon => d.cal.mon
  | .wday => d.cal.wday
  | .yr => d.cal.yr
  | .wp => d.wp
  | .ctl => d.ctl

/-- The register file with a named register holding `v`, all 8 bits (10_state.md R40, D14). -/
def regWrite (d : RegFile) (r : Reg) (v : Byte) : RegFile :=
  match r with
  | .sec => { d with cal := { d.cal with sec := v } }
  | .min => { d with cal := { d.cal with min := v } }
  | .hr => { d with cal := { d.cal with hr := v } }
  | .day => { d with cal := { d.cal with day := v } }
  | .mon => { d with cal := { d.cal with mon := v } }
  | .wday => { d with cal := { d.cal with wday := v } }
  | .yr => { d with cal := { d.cal with yr := v } }
  | .wp => { d with wp := v }
  | .ctl => { d with ctl := v }

/-- The byte of a place (47_device_target.md R220). -/
def placeRead (d : RegFile) : Place → Byte
  | .reg r => regRead d r
  | .ram s => Memory.read d.ram s

/-- The register file with a place holding `v`. -/
def placeWrite (d : RegFile) (p : Place) (v : Byte) : RegFile :=
  match p with
  | .reg r => regWrite d r v
  | .ram s => { d with ram := Memory.write d.ram s v }

/-- The write-protect latch, `WP[7]` (10_state.md R48). -/
def locked (d : RegFile) : Bool := bitOf d.wp 7

/-- The clock-halt bit `CH`, `SEC[7]` (10_state.md R41). -/
def halted (d : RegFile) : Bool := bitOf d.cal.sec 7

/-- A write frame is accepted iff it addresses WP itself or the latch is clear (47_device_target.md R221). -/
def accepts (d : RegFile) (p : Place) : Bool := p == .reg .wp || !locked d

/-- The effect of a write at a place: stored if accepted, nothing at all if not (47_device_target.md R221). -/
def storeAt (d : RegFile) (p : Place) (v : Byte) : RegFile := if accepts d p then placeWrite d p v else d

/-- `DevWrite(addr, v)` (47_device_target.md R221); an unmapped address is refused by the model (R224). -/
def devWrite (d : RegFile) (a v : Byte) : Except Refusal RegFile :=
  match writePlace a with
  | some p => .ok (storeAt d p v)
  | none => .error .unmappedWrite

/-- A draw of a byte: the next free value. -/
def drawByte (s : State) : Byte × State := (Config.anyByte s.draws, { s with draws := s.draws + 1 })

/-- A draw of a level: the next free value. -/
def drawLevel (s : State) : Bool × State := (Config.anyLevel s.draws, { s with draws := s.draws + 1 })

/-- `DevRead(addr)` (47_device_target.md R220); an unmapped address answers a draw (R224). -/
def devRead (s : State) (a : Byte) : Byte × State :=
  match readPlace a with
  | some p => (placeRead s.regs p, s)
  | none => drawByte s

/-! ### Timekeeping (47_device_target.md part 4) -/

/-- `tick_next` as an open function: the seven bytes of the free value, with `SEC[7] = 0` (47_device_target.md R246 (a)). -/
def openTick (c : Calendar) : Calendar :=
  let c' := Config.tickNext c
  { c' with sec := setBit c'.sec 7 false }

/-- The registers hold valid BCD within range (47_device_target.md R247). DESIGN CHOICE, unsafe: day 0 and month 0 count
as within range, as 10_state.md R44 and R45 have them, so that the reference instance ticks from them; U10 of
93_implementation_defined.md leaves such a tick open. Log entry 22. -/
def calendarValid (c : Calendar) : Bool :=
  !decodeErr .second c.sec && !decodeErr .minute c.min && !decodeErr .hour c.hr && !decodeErr .day c.day
    && !decodeErr .month c.mon && !decodeErr .weekday c.wday && !decodeErr .year c.yr

/-- The byte of a decimal value below 100. -/
def bcdByte (n : Nat) : Byte := BitVec.ofNat 8 (decimalToBcd n)

/-- The date registers advanced by the further parameter `next_date` (47_device_target.md R247). -/
def advanceDate (c : Calendar) : Calendar :=
  let n := Config.nextDate { day := c.day, mon := c.mon, wday := c.wday, yr := c.yr }
  { c with day := n.day, mon := n.mon, wday := n.wday, yr := n.yr }

/-- The reference instance of `tick_next` (47_device_target.md R247): seconds, minutes and hours carry, `next_date` at
midnight; "on any other register contents" it is the open function. -/
def refTick (c : Calendar) : Calendar :=
  if calendarValid c then
    let s := bcdToDecimal c.sec.toNat + 1
    let m := bcdToDecimal c.min.toNat + 1
    let h := bcdToDecimal c.hr.toNat + 1
    if s < 60 then { c with sec := bcdByte s }
    else if m < 60 then { c with sec := 0#8, min := bcdByte m }
    else if h < 24 then { c with sec := 0#8, min := 0#8, hr := bcdByte h }
    else { advanceDate c with sec := 0#8, min := 0#8, hr := 0#8 }
  else openTick c

/-- `tick_next` of the device's instance. -/
def tickCalendar (t : TickNext) (c : Calendar) : Calendar :=
  match t with
  | .anyFunction => openTick c
  | .reference => refTick c

/-- One `TICK` of the device: enabled iff `SEC[7] = 0`, and then the seven calendar registers advance and nothing else
changes (47_device_target.md R245). -/
def regsTick (t : TickNext) (d : RegFile) : RegFile :=
  if halted d then d else { d with cal := tickCalendar t d.cal }

/-- One `TICK` (47_device_target.md R245). -/
def tick (s : State) : State := { s with regs := regsTick s.par.tickNext s.regs }

/-- `n` `TICK` steps. -/
def tickTimes : Nat → State → State
  | 0, s => s
  | n + 1, s => tickTimes n (tick s)

/-- The `TICK` steps the schedule puts before the next frame (47_device_target.md R245: "between any two frames"). -/
def frameTicks (s : State) : State :=
  match s.ticks with
  | [] => s
  | n :: rest => tickTimes n { s with ticks := rest }

/-! ### The lines and the bus slave (47_device_target.md part 1) -/

/-- A device reacts to the line events: there is one (60_exceptions.md R252). -/
def deviceListens (s : State) : Bool :=
  match s.par.link with
  | .attached => true
  | .badBus => true
  | .absent => false

/-- The device drives DATA, which an absent one never does (10_state.md R25, R51; 93_implementation_defined.md U2). -/
def deviceDrives (s : State) : Bool := deviceListens s && s.bus.drv

/-- A read of the level of DATA (10_state.md R25): the controller's `DOUT` or the device's `dbit` when exactly one end
drives, a draw under contention or when floating, and a draw for what the device drives on a bad bus (60_exceptions.md
R252). -/
def readData (s : State) : Bool × State :=
  match s.dir, deviceDrives s with
  | .output, false => (s.dout, s)
  | .input, true => if s.par.link = .badBus then drawLevel s else (s.bus.dbit, s)
  | .output, true => drawLevel s
  | .input, false => drawLevel s

/-- The bus slave with no rising edge counted and nothing driven (47_device_target.md R211, R212); an absent device's
stays as it is. -/
def slaveIdle (s : State) : BusSlave := if deviceListens s then { s.bus with cnt := 0, drv := false } else s.bus

/-- Rising edge of CS: a frame begins (47_device_target.md R212). -/
def csRise (s : State) : State := { s with cs := true, bus := slaveIdle s }

/-- What a write frame cut after its command byte leaves in the addressed register: any value (47_device_target.md
R219, U11); an unmapped address is refused (R224). -/
def cutWrite (s : State) : Except Refusal State :=
  match writePlace s.bus.cmd with
  | some p =>
    let (v, s') := drawByte s
    .ok { s' with regs := placeWrite s'.regs p v }
  | none => .error .unmappedWrite

/-- A write frame is open: its command byte is complete and its data byte is not (47_device_target.md R216, R219). -/
def writeOpen (b : BusSlave) : Bool := decide (8 ≤ b.cnt) && decide (b.cnt < 16) && !bitOf b.cmd 0

/-- The bus-slave state whenever `CS = 0` (47_device_target.md R211, R212). -/
def endFrame (s : State) : State := { s with cs := false, bus := slaveIdle s }

/-- Falling edge of CS: the frame ends (47_device_target.md R212), regular or not (R219). -/
def csFall (s : State) : Except Refusal State :=
  if deviceListens s && writeOpen s.bus then
    match cutWrite s with
    | .ok s' => .ok (endFrame s')
    | .error r => .error r
  else .ok (endFrame s)

/-- The command byte is complete: a read latches the byte to send, once, at this instant; a write prepares to receive
(47_device_target.md R214, R217). -/
def commandDone (s : State) : State :=
  if bitOf s.bus.cmd 0 then
    let (v, s') := devRead s s.bus.cmd
    { s' with bus := { s'.bus with rlat := v } }
  else { s with bus := { s.bus with wsh := 0#8 } }

/-- A rising edge while the command byte is assembled (47_device_target.md R213, R214). -/
def captureCommand (s : State) : State :=
  let (b, s') := readData s
  let s'' := { s' with bus := { s'.bus with cmd := setBit s'.bus.cmd s'.bus.cnt b, cnt := s'.bus.cnt + 1 } }
  if s''.bus.cnt = 8 then commandDone s'' else s''

/-- A rising edge while write data is assembled; the 16th commits the write (47_device_target.md R216, R218). -/
def captureData (s : State) : Except Refusal State :=
  let (b, s') := readData s
  let t := { s'.bus with wsh := setBit s'.bus.wsh (s'.bus.cnt - 8) b, cnt := s'.bus.cnt + 1 }
  if t.cnt = 16 then
    match devWrite s'.regs t.cmd t.wsh with
    | .ok r => .ok { s' with regs := r, bus := t }
    | .error r => .error r
  else .ok { s' with bus := t }

/-- Rising edge of CLK as the device, if there is one, sees it: ignored while `CS = 0` (47_device_target.md R211), command
byte (R213), write data (R216), counted in a read (R215), ignored from the 17th on (R219). -/
def clkRise (s : State) : Except Refusal State :=
  if !s.cs || !deviceListens s then .ok s
  else if s.bus.cnt < 8 then .ok (captureCommand s)
  else if s.bus.cnt < 16 then
    if bitOf s.bus.cmd 0 then .ok { s with bus := { s.bus with cnt := s.bus.cnt + 1 } }
    else captureData s
  else .ok s

/-- Falling edge of CLK as the device, if there is one, sees it: in a read frame the next bit is driven, and DATA is
released at the 16th (47_device_target.md R215). -/
def clkFall (s : State) : State :=
  if !s.cs || !deviceListens s || !bitOf s.bus.cmd 0 || s.bus.cnt < 8 then s
  else if s.bus.cnt < 16 then { s with bus := { s.bus with drv := true, dbit := bitOf s.bus.rlat (s.bus.cnt - 8) } }
  else { s with bus := { s.bus with drv := false } }

/-- One line event and the device's reaction to it (00_scope.md R11, 47_device_target.md R210). The device reacts to
edges only: an event that leaves CS or CLK where it is has no further effect. The TICK steps scheduled before a frame
fall just before CS rises. The answer's first part is the level sampled, `false` for the other events. With no device
attached the event moves the controller's lines and nothing else reacts (60_exceptions.md R252). -/
def lineEvent (e : LineEvent) (s : State) : Except Refusal (Bool × State) :=
  match e with
  | .cs true => .ok (false, if s.cs then s else csRise (frameTicks s))
  | .cs false =>
    if s.cs then
      match csFall s with
      | .ok s' => .ok (false, s')
      | .error r => .error r
    else .ok (false, s)
  | .clk true =>
    if s.clk then .ok (false, s)
    else
      match clkRise s with
      | .ok s' => .ok (false, { s' with clk := true })
      | .error r => .error r
  | .clk false => .ok (false, if s.clk then { clkFall s with clk := false } else s)
  | .dir d => .ok (false, { s with dir := d })
  | .dout b => .ok (false, { s with dout := b })
  | .sample => .ok (readData s)

/-! ### The controller as a generator of line events (00_scope.md R14) -/

/-- What the controller does from a point of an operation on. -/
inductive Ctrl (α : Type) where
  /-- The operation has ended with an answer. -/
  | done (a : α)
  /-- The controller has performed its last line event, and the model gives the operation no meaning. -/
  | refuse (r : Refusal)
  /-- It performs a line event and goes on with the level that event returned. -/
  | event (e : LineEvent) (k : Bool → Ctrl α)
  /-- The same outside the contract: the controller makes no check and performs the event all the same, but the model
  gives the operation no meaning, for the reason `r` (20_memory.md R64, 00_scope.md R13). -/
  | outside (r : Refusal) (e : LineEvent) (k : Bool → Ctrl α)

/-- `p`, then `f` of its answer. -/
def Ctrl.andThen {α β : Type} (p : Ctrl α) (f : α → Ctrl β) : Ctrl β :=
  match p with
  | .done a => f a
  | .refuse r => .refuse r
  | .event e k => .event e (fun b => Ctrl.andThen (k b) f)
  | .outside r e k => .outside r e (fun b => Ctrl.andThen (k b) f)

/-- The line events of `p` performed outside the contract, for the reason `r`, and no answer at their end: "the
controller performs no check: it emits exactly the line events" (20_memory.md R64). -/
def Ctrl.outsideContract {α β : Type} (r : Refusal) : Ctrl α → Ctrl β
  | .done _ => .refuse r
  | .refuse _ => .refuse r
  | .event e k => .outside r e (fun b => (k b).outsideContract r)
  | .outside _ e k => .outside r e (fun b => (k b).outsideContract r)

/-- Perform a line event, then `p`. -/
def emit {α : Type} (e : LineEvent) (p : Ctrl α) : Ctrl α := .event e (fun _ => p)

/-- An operation run to its last line event (30_encoding.md R97). One that leaves the contract has no meaning. -/
def Ctrl.run {α : Type} : Ctrl α → State → Except Refusal (α × State)
  | .done a, s => .ok (a, s)
  | .refuse r, _ => .error r
  | .event e k, s =>
    match lineEvent e s with
    | .ok (b, s') => (k b).run s'
    | .error r => .error r
  | .outside r _ _, _ => .error r

/-- What the controller goes on with after a line event: the level it sampled and the state. Where the model gives the
device's reaction no meaning (47_device_target.md R224) the controller, which sees nothing of it, goes on all the same:
"always run to their last line event" (41_register_access.md R134). -/
def goOn (e : LineEvent) (s : State) : Bool × State :=
  match lineEvent e s with
  | .ok x => x
  | .error _ => (false, s)

/-- The bus trace: the line events an operation performs, in order (00_scope.md R11), inside the contract or outside it
(20_memory.md R64). -/
def Ctrl.trace {α : Type} : Ctrl α → State → List LineEvent
  | .done _, _ => []
  | .refuse _, _ => []
  | .event e k, s => e :: (k (goOn e s).1).trace (goOn e s).2
  | .outside _ e k, s => e :: (k (goOn e s).1).trace (goOn e s).2

/-- What is left of an operation after line events that returned the given levels (10_state.md R30). -/
def Ctrl.after {α : Type} : Ctrl α → List Bool → Ctrl α
  | p, [] => p
  | .event _ k, b :: bs => (k b).after bs
  | .outside _ _ k, b :: bs => (k b).after bs
  | p, _ :: _ => p

/-! ### Completing a command -/

/-- The response is written when the command has completed (30_encoding.md R97, R98). -/
def respond (r : Response) (s : State) : State := { s with res := r.res, status := r.status }

/-- A command executed as one step: run to its last line event, then the response (30_encoding.md R97). -/
def perform (p : Ctrl Response) (s : State) : Host.Outcome State Fault Refusal :=
  match p.run s with
  | .ok (r, s') => .next (respond r s')
  | .error r => .refused r

/-- A refused command: no line event, nothing changes but the response (60_exceptions.md R253). -/
def refuseCommand (s : State) : State := respond illegalResult s

/-! ### Controller reset (70_reset_and_hazards.md R280, R281) -/

/-- The controller's values after reset (10_state.md R54). The device is not reset (R282). -/
def resetController (s : State) : State :=
  { s with cs := false, clk := false, dir := .input, dout := false, res := Results.zero, status := 0#16, seq := .idle }

/-- The reset input: a running command is abandoned at the current line event, CS falls if it was high, with the
device's reaction to that (47_device_target.md R219), and the lines go to their reset levels without a clock pulse. -/
def applyReset (s : State) : Except Refusal State :=
  if s.cs then
    match csFall s with
    | .ok s' => .ok (resetController s')
    | .error r => .error r
  else .ok (resetController s)

/-! ### A frame as the device sees it -/

/-- The device's execution of a write frame with command byte `a` and data byte `v` (47_device_target.md R214 to R218):
the bus-slave bytes it leaves, and `DevWrite`. -/
def busWrite (a v : Byte) (p : Place) (s : State) : State :=
  { s with regs := storeAt s.regs p v, bus := { s.bus with cmd := a, wsh := v } }

/-- The device's execution of a read frame with command byte `a` (47_device_target.md R214 to R217): the byte `v` it
latched and sent, whose last bit DATA showed. -/
def busRead (a v : Byte) (s : State) : State :=
  { s with bus := { s.bus with cmd := a, rlat := v, dbit := bitOf v 7 } }

end Sys2Proof.Machine
end

