-- ==== Sys2Proof/Machine/BusCommands.lean ====
section
/-! DEFINITION. The bus commands as the device executes them (47_device_target.md part 3), at the transaction level: the
frame's one effect on the register file and the bus-slave bytes it leaves. The controller's lines and response are not
touched: the bus has no status and the device no flags. A frame taken alone is the device's own, whether or not the
controller's lines lead to that device (`par.link`, log entry 20). -/

namespace Sys2Proof.Machine

/-- A write command to a named register (47_device_target.md R221). -/
def writeCommand (r : Reg) (d : Byte) (s : State) : Host.Outcome State Fault Refusal :=
  .next (busWrite (regWriteAddr r) d (.reg r) s)

/-- A read command of a named register (47_device_target.md R220). -/
def readCommand (r : Reg) (s : State) : Host.Outcome State Fault Refusal :=
  .next (busRead (regReadAddr r) (regRead s.regs r) s)

/-- The command byte of RAM slot `s` to write, `0xC0 + 2s` (47_device_target.md R243). -/
def ramCommandWrite (s : BitVec 5) : Byte := BitVec.ofNat 8 (0xC0 + 2 * s.toNat)

/-- The command byte of RAM slot `s` to read, `0xC1 + 2s` (47_device_target.md R244). -/
def ramCommandRead (s : BitVec 5) : Byte := BitVec.ofNat 8 (0xC1 + 2 * s.toNat)

/-- WR.SEC (47_device_target.md R225). -/
def execWrSec (d : Byte) (s : State) : Host.Outcome State Fault Refusal := writeCommand .sec d s

/-- RD.SEC (47_device_target.md R226). -/
def execRdSec (s : State) : Host.Outcome State Fault Refusal := readCommand .sec s

/-- WR.MIN (47_device_target.md R227). -/
def execWrMin (d : Byte) (s : State) : Host.Outcome State Fault Refusal := writeCommand .min d s

/-- RD.MIN (47_device_target.md R228). -/
def execRdMin (s : State) : Host.Outcome State Fault Refusal := readCommand .min s

/-- WR.HR (47_device_target.md R229). -/
def execWrHr (d : Byte) (s : State) : Host.Outcome State Fault Refusal := writeCommand .hr d s

/-- RD.HR (47_device_target.md R230). -/
def execRdHr (s : State) : Host.Outcome State Fault Refusal := readCommand .hr s

/-- WR.DAY (47_device_target.md R231). -/
def execWrDay (d : Byte) (s : State) : Host.Outcome State Fault Refusal := writeCommand .day d s

/-- RD.DAY (47_device_target.md R232). -/
def execRdDay (s : State) : Host.Outcome State Fault Refusal := readCommand .day s

/-- WR.MON (47_device_target.md R233). -/
def execWrMon (d : Byte) (s : State) : Host.Outcome State Fault Refusal := writeCommand .mon d s

/-- RD.MON (47_device_target.md R234). -/
def execRdMon (s : State) : Host.Outcome State Fault Refusal := readCommand .mon s

/-- WR.WDAY (47_device_target.md R235). -/
def execWrWday (d : Byte) (s : State) : Host.Outcome State Fault Refusal := writeCommand .wday d s

/-- RD.WDAY (47_device_target.md R236). -/
def execRdWday (s : State) : Host.Outcome State Fault Refusal := readCommand .wday s

/-- WR.YR (47_device_target.md R237). -/
def execWrYr (d : Byte) (s : State) : Host.Outcome State Fault Refusal := writeCommand .yr d s

/-- RD.YR (47_device_target.md R238). -/
def execRdYr (s : State) : Host.Outcome State Fault Refusal := readCommand .yr s

/-- WR.WP (47_device_target.md R239). -/
def execWrWp (d : Byte) (s : State) : Host.Outcome State Fault Refusal := writeCommand .wp d s

/-- RD.WP (47_device_target.md R240). -/
def execRdWp (s : State) : Host.Outcome State Fault Refusal := readCommand .wp s

/-- WR.CTL (47_device_target.md R241). -/
def execWrCtl (d : Byte) (s : State) : Host.Outcome State Fault Refusal := writeCommand .ctl d s

/-- RD.CTL (47_device_target.md R242). -/
def execRdCtl (s : State) : Host.Outcome State Fault Refusal := readCommand .ctl s

/-- A read frame of an unmapped odd command byte: a draw is answered, no specified state changes
(47_device_target.md R224). -/
def readUnmapped (c : Byte) (s : State) : State :=
  let (v, s') := drawByte s
  busRead c v s'

/-- A frame whose command byte is no bus command: read, answered by a draw; written, refused by the model
(47_device_target.md R224, 30_encoding.md R93). -/
def unmappedFrame (c : Byte) (s : State) : Host.Outcome State Fault Refusal :=
  if bitOf c 0 then .next (readUnmapped c s) else .refused .unmappedWrite

/-- WR.RAM (47_device_target.md R243); `slot = 31` is unmapped. -/
def execWrRam (slot : BitVec 5) (d : Byte) (s : State) : Host.Outcome State Fault Refusal :=
  if slotEncodable slot then .next (busWrite (ramCommandWrite slot) d (.ram slot.toNat) s)
  else unmappedFrame (ramCommandWrite slot) s

/-- RD.RAM (47_device_target.md R244); `slot = 31` is unmapped. -/
def execRdRam (slot : BitVec 5) (s : State) : Host.Outcome State Fault Refusal :=
  if slotEncodable slot then .next (busRead (ramCommandRead slot) (Memory.read s.regs.ram slot.toNat) s)
  else unmappedFrame (ramCommandRead slot) s

end Sys2Proof.Machine
end

