-- ==== Sys2Proof/Machine/SerialBus.lean ====
section
/-! DEFINITION. The Serial Bus Driver: TXB and RXB (40_serial_bus_driver.md). -/

namespace Sys2Proof.Machine

/-- The bit positions of a byte in the order they travel, least significant first (20_memory.md R65). -/
def lsbFirst : List Nat := [0, 1, 2, 3, 4, 5, 6, 7]

/-- The bit periods of a transmitted byte: drive the bit, then pulse the clock (40_serial_bus_driver.md R121). -/
def txBits (value : Byte) : List Nat → Ctrl Unit
  | [] => .done ()
  | i :: rest => emit (.dout (bitOf value i)) (emit (.clk true) (emit (.clk false) (txBits value rest)))

/-- `TXB value` (40_serial_bus_driver.md R121). -/
def transmitByte (value : Byte) : Ctrl Unit := emit (.dir .output) (txBits value lsbFirst)

/-- The bit periods of a received byte: sample the line, then pulse the clock (40_serial_bus_driver.md R122). -/
def rxBits (r : Byte) : List Nat → Ctrl Byte
  | [] => .done r
  | i :: rest => .event .sample (fun b => emit (.clk true) (emit (.clk false) (rxBits (setBit r i b) rest)))

/-- `RXB` (40_serial_bus_driver.md R122). -/
def receiveByte : Ctrl Byte := emit (.dir .input) (rxBits 0#8 lsbFirst)

/-- TXB as an operation of its own: no result (30_encoding.md R96). -/
def txbProg (value : Byte) : Ctrl Response := (transmitByte value).andThen fun _ => .done noResult

/-- RXB as an operation of its own: the byte in `RES[0]` (30_encoding.md R96). -/
def rxbProg : Ctrl Response := receiveByte.andThen fun r => .done (valueResult (zext16 r))

/-- TXB (40_serial_bus_driver.md R121). -/
def execTxb (value : Byte) (s : State) : Host.Outcome State Fault Refusal := perform (txbProg value) s

/-- RXB (40_serial_bus_driver.md R122). -/
def execRxb (s : State) : Host.Outcome State Fault Refusal := perform rxbProg s

end Sys2Proof.Machine
end

