-- ==== Sys2Proof/Machine/RegisterAccess.lean ====
section
/-! DEFINITION. The Register Access Layer: RDREG, WRREG, WRPROT (41_register_access.md). -/

namespace Sys2Proof.Machine

/-- A read frame: chip-select around a transmitted command byte and a received data byte (41_register_access.md R131). -/
def readFrame (a : Byte) : Ctrl Byte :=
  emit (.cs true) ((transmitByte a).andThen fun _ => receiveByte.andThen fun r => emit (.cs false) (.done r))

/-- A write frame: chip-select around two transmitted bytes (41_register_access.md R132). -/
def writeFrame (a v : Byte) : Ctrl Unit :=
  emit (.cs true) ((transmitByte a).andThen fun _ => (transmitByte v).andThen fun _ => emit (.cs false) (.done ()))

/-- `readRegister(addr)` (41_register_access.md R131). With an even address the line events are the same, outside the
contract: the model refuses the operation (20_memory.md R64). -/
def readRegister (a : Byte) : Ctrl Byte :=
  if bitOf a 0 then readFrame a else (readFrame a).outsideContract .readFromWriteAddress

/-- What a write operation does at the address `a`: its line events `p`, which with an odd address are outside the
contract (20_memory.md R64). -/
def atWriteAddress {α : Type} (a : Byte) (p : Ctrl α) : Ctrl α :=
  if bitOf a 0 then p.outsideContract .writeToReadAddress else p

/-- `writeRegister(addr, value)` (41_register_access.md R132). With an odd address the line events are the same, outside
the contract (20_memory.md R64). An unmapped even address is refused by the device (47_device_target.md R224). -/
def writeRegister (a v : Byte) : Ctrl Unit := atWriteAddress a (writeFrame a v)

/-- `writeProtected(addr, value)`: unlock, write, re-lock (41_register_access.md R133). With an odd address it leaves the
contract at its second frame, and the third follows all the same (20_memory.md R64). -/
def writeProtected (a v : Byte) : Ctrl Unit :=
  (writeRegister (regWriteAddr .wp) wpUnlock).andThen fun _ =>
    atWriteAddress a ((writeFrame a v).andThen fun _ => writeFrame (regWriteAddr .wp) wpLock)

/-- RDREG as an operation: the raw byte in `RES[0]`. -/
def rdregProg (a : Byte) : Ctrl Response := (readRegister a).andThen fun r => .done (valueResult (zext16 r))

/-- WRREG as an operation: no result. -/
def wrregProg (a v : Byte) : Ctrl Response := (writeRegister a v).andThen fun _ => .done noResult

/-- WRPROT as an operation: no result. -/
def wrprotProg (a v : Byte) : Ctrl Response := (writeProtected a v).andThen fun _ => .done noResult

/-- RDREG (41_register_access.md R131). -/
def execRdreg (addr : Byte) (s : State) : Host.Outcome State Fault Refusal := perform (rdregProg addr) s

/-- WRREG (41_register_access.md R132). -/
def execWrreg (addr value : Byte) (s : State) : Host.Outcome State Fault Refusal := perform (wrregProg addr value) s

/-- WRPROT (41_register_access.md R133). -/
def execWrprot (addr value : Byte) (s : State) : Host.Outcome State Fault Refusal := perform (wrprotProg addr value) s

end Sys2Proof.Machine
end

