-- ==== Sys2Proof/Machine/CalendarFields.lean ====
section
/-! DEFINITION. The per-field accessors of the Calendar Model: GET.f and SET.f (43_calendar_fields.md). -/

namespace Sys2Proof.Machine

/-- A get of field `f`: one read frame, the decoded value and its decode-error bit (43_calendar_fields.md R150). -/
def getField (f : Field) : Ctrl (Half × Bool) :=
  (readRegister (regReadAddr (fieldReg f))).andThen fun b => .done (fieldValue f b, decodeErr f b)

/-- A set of field `f`: one protected write of the reduced, encoded value (43_calendar_fields.md R150). -/
def setField (f : Field) (v : Half) : Ctrl Unit := writeProtected (regWriteAddr (fieldReg f)) (fieldByte f v)

/-- GET.f as an operation. -/
def getProg (f : Field) : Ctrl Response := (getField f).andThen fun x => .done (getResult x.1 x.2)

/-- SET.f as an operation. -/
def setProg (f : Field) (v : Half) : Ctrl Response := (setField f v).andThen fun _ => .done noResult

/-- GET.SEC (43_calendar_fields.md R151). -/
def execGetSec (s : State) : Host.Outcome State Fault Refusal := perform (getProg .second) s

/-- GET.MIN (43_calendar_fields.md R152). -/
def execGetMin (s : State) : Host.Outcome State Fault Refusal := perform (getProg .minute) s

/-- GET.HR (43_calendar_fields.md R153). -/
def execGetHr (s : State) : Host.Outcome State Fault Refusal := perform (getProg .hour) s

/-- GET.DAY (43_calendar_fields.md R154). -/
def execGetDay (s : State) : Host.Outcome State Fault Refusal := perform (getProg .day) s

/-- GET.MON (43_calendar_fields.md R155). -/
def execGetMon (s : State) : Host.Outcome State Fault Refusal := perform (getProg .month) s

/-- GET.WDAY (43_calendar_fields.md R156). -/
def execGetWday (s : State) : Host.Outcome State Fault Refusal := perform (getProg .weekday) s

/-- GET.YR (43_calendar_fields.md R157). -/
def execGetYr (s : State) : Host.Outcome State Fault Refusal := perform (getProg .year) s

/-- SET.SEC (43_calendar_fields.md R158). -/
def execSetSec (v : Half) (s : State) : Host.Outcome State Fault Refusal := perform (setProg .second v) s

/-- SET.MIN (43_calendar_fields.md R159). -/
def execSetMin (v : Half) (s : State) : Host.Outcome State Fault Refusal := perform (setProg .minute v) s

/-- SET.HR (43_calendar_fields.md R160). -/
def execSetHr (v : Half) (s : State) : Host.Outcome State Fault Refusal := perform (setProg .hour v) s

/-- SET.DAY (43_calendar_fields.md R161). -/
def execSetDay (v : Half) (s : State) : Host.Outcome State Fault Refusal := perform (setProg .day v) s

/-- SET.MON (43_calendar_fields.md R162). -/
def execSetMon (v : Half) (s : State) : Host.Outcome State Fault Refusal := perform (setProg .month v) s

/-- SET.WDAY (43_calendar_fields.md R163). -/
def execSetWday (v : Half) (s : State) : Host.Outcome State Fault Refusal := perform (setProg .weekday v) s

/-- SET.YR (43_calendar_fields.md R164). -/
def execSetYr (v : Half) (s : State) : Host.Outcome State Fault Refusal := perform (setProg .year v) s

end Sys2Proof.Machine
end

