-- ==== Sys2Proof/Machine/Codec.lean ====
section
/-! DEFINITION. The BCD codec as host commands: D2B and B2D (42_bcd_codec.md). No line event. -/

namespace Sys2Proof.Machine

/-- D2B as an operation: the untruncated formula in `RES[0]` (42_bcd_codec.md R141). -/
def d2bProg (n : Byte) : Ctrl Response := .done (valueResult (BitVec.ofNat 16 (decimalToBcd n.toNat)))

/-- B2D as an operation: the formula in `RES[0]`, no validity check (42_bcd_codec.md R142). -/
def b2dProg (b : Byte) : Ctrl Response := .done (valueResult (BitVec.ofNat 16 (bcdToDecimal b.toNat)))

/-- D2B (42_bcd_codec.md R141). -/
def execD2b (n : Byte) (s : State) : Host.Outcome State Fault Refusal := perform (d2bProg n) s

/-- B2D (42_bcd_codec.md R142). -/
def execB2d (b : Byte) (s : State) : Host.Outcome State Fault Refusal := perform (b2dProg b) s

end Sys2Proof.Machine
end

