-- ==== Sys2Proof/Machine/Oscillator.lean ====
section
/-! DEFINITION. Oscillator control: START and STOP (44_oscillator_control.md), read-modify-writes of the seconds register
through WRPROT (R180, conflict C1 of 90_conflicts.md). -/

namespace Sys2Proof.Machine

/-- `start()`: read the seconds register, clear bit 7, write back (44_oscillator_control.md R181). -/
def startOscillator : Ctrl Unit :=
  (readRegister (regReadAddr .sec)).andThen fun t => writeProtected (regWriteAddr .sec) (t &&& 0x7F#8)

/-- `stop()`: read the seconds register, set bit 7, write back (44_oscillator_control.md R182). -/
def stopOscillator : Ctrl Unit :=
  (readRegister (regReadAddr .sec)).andThen fun t => writeProtected (regWriteAddr .sec) (t ||| 0x80#8)

/-- START as an operation. -/
def startProg : Ctrl Response := startOscillator.andThen fun _ => .done noResult

/-- STOP as an operation. -/
def stopProg : Ctrl Response := stopOscillator.andThen fun _ => .done noResult

/-- START (44_oscillator_control.md R181). -/
def execStart (s : State) : Host.Outcome State Fault Refusal := perform startProg s

/-- STOP (44_oscillator_control.md R182). -/
def execStop (s : State) : Host.Outcome State Fault Refusal := perform stopProg s

end Sys2Proof.Machine
end

