-- ==== Sys2Proof/Machine/RamAccess.lean ====
section
/-! DEFINITION. RAM access: GETRAM and SETRAM (46_ram.md). -/

namespace Sys2Proof.Machine

/-- GETRAM as an operation: the raw byte in `RES[0]` (46_ram.md R201). -/
def getramProg (slot : Half) : Ctrl Response :=
  (readRegister (ramReadAddr slot)).andThen fun b => .done (valueResult (zext16 b))

/-- SETRAM as an operation: one protected write of the byte as given (46_ram.md R202). -/
def setramProg (slot : Half) (value : Byte) : Ctrl Response :=
  (writeProtected (ramWriteAddr slot) value).andThen fun _ => .done noResult

/-- GETRAM (46_ram.md R201). -/
def execGetram (slot : Half) (s : State) : Host.Outcome State Fault Refusal := perform (getramProg slot) s

/-- SETRAM (46_ram.md R202). -/
def execSetram (slot : Half) (value : Byte) (s : State) : Host.Outcome State Fault Refusal :=
  perform (setramProg slot value) s

end Sys2Proof.Machine
end

