-- ==== Sys2Proof/Machine/Snapshots.lean ====
section
/-! DEFINITION. Whole-snapshot operations: GETDT, SETDT, SETDT.A, GETDT.A (45_snapshot.md). -/

namespace Sys2Proof.Machine

/-- A snapshot as it was read: the seven values in the order of the result slots and their decode-error bits
(45_snapshot.md R190). -/
structure Snapshot where
  res  : Results
  derr : BitVec 7
  deriving DecidableEq, Repr

/-- `getDateTime()`: the seven gets in the fixed order year, month, day, weekday, hour, minute, second
(45_snapshot.md R190). -/
def getDateTime : Ctrl Snapshot :=
  (getField .year).andThen fun x0 =>
  (getField .month).andThen fun x1 =>
  (getField .day).andThen fun x2 =>
  (getField .weekday).andThen fun x3 =>
  (getField .hour).andThen fun x4 =>
  (getField .minute).andThen fun x5 =>
  (getField .second).andThen fun x6 =>
  .done
    { res := { r0 := x0.1, r1 := x1.1, r2 := x2.1, r3 := x3.1, r4 := x4.1, r5 := x5.1, r6 := x6.1 }
      derr := packDerr x0.2 x1.2 x2.2 x3.2 x4.2 x5.2 x6.2 }

/-- `setDateTime([y, mo, d, w, h, mi, s])`: the seven sets in the same order (45_snapshot.md R191). -/
def setDateTime (y mo d w h mi s : Half) : Ctrl Unit :=
  (setField .year y).andThen fun _ =>
  (setField .month mo).andThen fun _ =>
  (setField .day d).andThen fun _ =>
  (setField .weekday w).andThen fun _ =>
  (setField .hour h).andThen fun _ =>
  (setField .minute mi).andThen fun _ =>
  setField .second s

/-- The response that returns a snapshot. -/
def snapshotResult (x : Snapshot) (torn : Bool) : Response :=
  { res := x.res, status := packStatus x.derr torn false }

/-- The loop of GETDT.A after a snapshot `p`, with `n` retries left (45_snapshot.md R193). -/
def rereadUntilEqual : Nat → Snapshot → Ctrl Response
  | 0, p => getDateTime.andThen fun q => .done (snapshotResult q (decide (q ≠ p)))
  | n + 1, p => getDateTime.andThen fun q => if q = p then .done (snapshotResult q false) else rereadUntilEqual n q

/-- GETDT as an operation. -/
def getdtProg : Ctrl Response := getDateTime.andThen fun x => .done (snapshotResult x false)

/-- SETDT as an operation. -/
def setdtProg (y mo d w h mi s : Half) : Ctrl Response := (setDateTime y mo d w h mi s).andThen fun _ => .done noResult

/-- GETDT.A as an operation: illegal when the option is absent, else snapshots until two agree or the retries run out
(30_encoding.md R99, 45_snapshot.md R193). -/
def getdtAProg (p : Params) : Ctrl Response :=
  if p.hasAtomicDT then getDateTime.andThen fun x => rereadUntilEqual p.atomicRetryMax x else .done illegalResult

/-- SETDT.A as an operation: illegal when the option is absent, else `STOP`; `SETDT`; `START` (30_encoding.md R99,
45_snapshot.md R192). -/
def setdtAProg (p : Params) (y mo d w h mi s : Half) : Ctrl Response :=
  if p.hasAtomicDT then
    stopOscillator.andThen fun _ => (setDateTime y mo d w h mi s).andThen fun _ =>
      startOscillator.andThen fun _ => .done noResult
  else .done illegalResult

/-- GETDT (45_snapshot.md R190). -/
def execGetdt (s : State) : Host.Outcome State Fault Refusal := perform getdtProg s

/-- SETDT (45_snapshot.md R191). -/
def execSetdt (year month day weekday hour minute second : Half) (s : State) : Host.Outcome State Fault Refusal :=
  perform (setdtProg year month day weekday hour minute second) s

/-- GETDT.A (45_snapshot.md R193). -/
def execGetdtA (s : State) : Host.Outcome State Fault Refusal := perform (getdtAProg s.par) s

/-- SETDT.A (45_snapshot.md R192). -/
def execSetdtA (year month day weekday hour minute second : Half) (s : State) : Host.Outcome State Fault Refusal :=
  perform (setdtAProg s.par year month day weekday hour minute second) s

end Sys2Proof.Machine
end

