-- ==== Sys2Proof/Machine/Dispatch.lean ====
section
/-! DEFINITION. One instruction executed: one arm per constructor, each a direct call of its meaning. -/

namespace Sys2Proof.Machine

def exec (i : Instr) (s : State) : Host.Outcome State Fault Refusal :=
  match i with
  | .txb value => Sys2Proof.Machine.execTxb value s
  | .rxb => Sys2Proof.Machine.execRxb s
  | .rdreg addr => Sys2Proof.Machine.execRdreg addr s
  | .wrreg addr value => Sys2Proof.Machine.execWrreg addr value s
  | .wrprot addr value => Sys2Proof.Machine.execWrprot addr value s
  | .d2b n => Sys2Proof.Machine.execD2b n s
  | .b2d b => Sys2Proof.Machine.execB2d b s
  | .getSec => Sys2Proof.Machine.execGetSec s
  | .getMin => Sys2Proof.Machine.execGetMin s
  | .getHr => Sys2Proof.Machine.execGetHr s
  | .getDay => Sys2Proof.Machine.execGetDay s
  | .getMon => Sys2Proof.Machine.execGetMon s
  | .getWday => Sys2Proof.Machine.execGetWday s
  | .getYr => Sys2Proof.Machine.execGetYr s
  | .setSec v => Sys2Proof.Machine.execSetSec v s
  | .setMin v => Sys2Proof.Machine.execSetMin v s
  | .setHr v => Sys2Proof.Machine.execSetHr v s
  | .setDay v => Sys2Proof.Machine.execSetDay v s
  | .setMon v => Sys2Proof.Machine.execSetMon v s
  | .setWday v => Sys2Proof.Machine.execSetWday v s
  | .setYr v => Sys2Proof.Machine.execSetYr v s
  | .start => Sys2Proof.Machine.execStart s
  | .stop => Sys2Proof.Machine.execStop s
  | .getdt => Sys2Proof.Machine.execGetdt s
  | .setdt year month day weekday hour minute second => Sys2Proof.Machine.execSetdt year month day weekday hour minute second s
  | .getdtA => Sys2Proof.Machine.execGetdtA s
  | .setdtA year month day weekday hour minute second => Sys2Proof.Machine.execSetdtA year month day weekday hour minute second s
  | .getram slot => Sys2Proof.Machine.execGetram slot s
  | .setram slot value => Sys2Proof.Machine.execSetram slot value s
  | .wrSec d => Sys2Proof.Machine.execWrSec d s
  | .rdSec => Sys2Proof.Machine.execRdSec s
  | .wrMin d => Sys2Proof.Machine.execWrMin d s
  | .rdMin => Sys2Proof.Machine.execRdMin s
  | .wrHr d => Sys2Proof.Machine.execWrHr d s
  | .rdHr => Sys2Proof.Machine.execRdHr s
  | .wrDay d => Sys2Proof.Machine.execWrDay d s
  | .rdDay => Sys2Proof.Machine.execRdDay s
  | .wrMon d => Sys2Proof.Machine.execWrMon d s
  | .rdMon => Sys2Proof.Machine.execRdMon s
  | .wrWday d => Sys2Proof.Machine.execWrWday d s
  | .rdWday => Sys2Proof.Machine.execRdWday s
  | .wrYr d => Sys2Proof.Machine.execWrYr d s
  | .rdYr => Sys2Proof.Machine.execRdYr s
  | .wrWp d => Sys2Proof.Machine.execWrWp d s
  | .rdWp => Sys2Proof.Machine.execRdWp s
  | .wrCtl d => Sys2Proof.Machine.execWrCtl d s
  | .rdCtl => Sys2Proof.Machine.execRdCtl s
  | .wrRam slot d => Sys2Proof.Machine.execWrRam slot d s
  | .rdRam slot => Sys2Proof.Machine.execRdRam slot s

end Sys2Proof.Machine
end

