-- ==== Sys2Proof/Machine/Port.lean ====
section
/-! DEFINITION. The command port and the sequencer: what one input of the environment does, a command run in one step
(30_encoding.md R97) or line event by line event (10_state.md R30), a frame applied to the device, a TICK, a reset. -/

namespace Sys2Proof.Machine

/-- What the controller does for a host operation, as a generator of line events; a bus command is the device's and has
none (00_scope.md R14). -/
def operation (p : Params) : Instr → Option (Ctrl Response)
  | .txb value => some (txbProg value)
  | .rxb => some rxbProg
  | .rdreg addr => some (rdregProg addr)
  | .wrreg addr value => some (wrregProg addr value)
  | .wrprot addr value => some (wrprotProg addr value)
  | .d2b n => some (d2bProg n)
  | .b2d b => some (b2dProg b)
  | .getSec => some (getProg .second)
  | .getMin => some (getProg .minute)
  | .getHr => some (getProg .hour)
  | .getDay => some (getProg .day)
  | .getMon => some (getProg .month)
  | .getWday => some (getProg .weekday)
  | .getYr => some (getProg .year)
  | .setSec v => some (setProg .second v)
  | .setMin v => some (setProg .minute v)
  | .setHr v => some (setProg .hour v)
  | .setDay v => some (setProg .day v)
  | .setMon v => some (setProg .month v)
  | .setWday v => some (setProg .weekday v)
  | .setYr v => some (setProg .year v)
  | .start => some startProg
  | .stop => some stopProg
  | .getdt => some getdtProg
  | .setdt year month day weekday hour minute second => some (setdtProg year month day weekday hour minute second)
  | .getdtA => some (getdtAProg p)
  | .setdtA year month day weekday hour minute second => some (setdtAProg p year month day weekday hour minute second)
  | .getram slot => some (getramProg slot)
  | .setram slot value => some (setramProg slot value)
  | .wrSec _ => none
  | .rdSec => none
  | .wrMin _ => none
  | .rdMin => none
  | .wrHr _ => none
  | .rdHr => none
  | .wrDay _ => none
  | .rdDay => none
  | .wrMon _ => none
  | .rdMon => none
  | .wrWday _ => none
  | .rdWday => none
  | .wrYr _ => none
  | .rdYr => none
  | .wrWp _ => none
  | .rdWp => none
  | .wrCtl _ => none
  | .rdCtl => none
  | .wrRam _ _ => none
  | .rdRam _ => none

/-- The frame the next line event belongs to, counting from 0 (10_state.md R30). -/
def positionFrame (done : List Bool) : Nat := done.length / 52

/-- The event within the frame: 0 raises CS, 1 and 26 set DIR, 2 to 25 and 27 to 50 are the bit periods of the two
bytes, 51 lowers CS (41_register_access.md R131, R132). -/
def positionEvent (done : List Bool) : Nat := done.length % 52

/-- The byte within the frame, 0 the command byte and 1 the data byte; a chip-select event counts with the byte it
adjoins (10_state.md R30). -/
def positionByte (done : List Bool) : Nat := if positionEvent done < 26 then 0 else 1

/-- The bit within the byte, 0 to 7; an event outside the bit periods counts with the bit it adjoins (10_state.md R30). -/
def positionBit (done : List Bool) : Nat := min 7 ((positionEvent done - 2 - 25 * positionByte done) / 3)

/-- The phase within the bit period: 0 before the data action, 1 before the clock goes high, 2 before it goes low
(10_state.md R30). -/
def positionPhase (done : List Bool) : Nat := (positionEvent done - 2 - 25 * positionByte done) % 3

/-- The step completes with the answer of the controller's generator, or the sequencer moves to its next position. The
position returns to idle after the last event of the command (10_state.md R30). -/
def settle (i : Instr) (done : List Bool) (p : Ctrl Response) (s : State) : Host.Outcome State Fault Refusal :=
  match p with
  | .done r => .next { respond r s with seq := .idle }
  | .refuse r => .refused r
  | .event _ _ => .next { s with seq := .running i done }
  | .outside _ _ _ => .next { s with seq := .running i done }

/-- One line event of a running command (10_state.md R30). Outside the contract (20_memory.md R64) the controller's events
are performed one by one all the same, the device reacting as R64 says it does, and the model refuses the operation at
its last event (log entry 15), unless a reset cuts it before (log entry 23). -/
def advance (i : Instr) (done : List Bool) (s : State) : Host.Outcome State Fault Refusal :=
  match operation s.par i with
  | none => exec i { s with seq := .idle }
  | some p =>
    match p.after done with
    | .event e k =>
      match lineEvent e s with
      | .ok (b, s') => settle i (done ++ [b]) (k b) s'
      | .error r => .refused r
    | .outside r e k =>
      match lineEvent e s with
      | .ok (b, s') => settle i (done ++ [b]) (k b) s'
      | .error _ => .refused r
    | q => settle i done q s

/-- The command port takes a word and runs it to completion; an illegal word is refused (30_encoding.md R97, R99). -/
def hostCommand (w : CmdWord) (s : State) : Host.Outcome State Fault Refusal :=
  match hostDecode s.par.hasAtomicDT w with
  | .ok i => exec i s
  | .error _ => .next (refuseCommand s)

/-- The command port takes a word and the sequencer starts on it, at no line event yet (10_state.md R30). An operation
without line events, and an illegal word, complete at once. -/
def hostCommandByLine (w : CmdWord) (s : State) : Host.Outcome State Fault Refusal :=
  match hostDecode s.par.hasAtomicDT w with
  | .ok i =>
    match operation s.par i with
    | some p => settle i [] p s
    | none => exec i s
  | .error _ => .next (refuseCommand s)

/-- An operation of the table taken alone, internal or not; a word of no row is refused like an illegal one. -/
def internalOperation (w : CmdWord) (s : State) : Host.Outcome State Fault Refusal :=
  match decodeOp w with
  | .ok i => exec i s
  | .error _ => .next (refuseCommand s)

/-- A frame applied to the device alone (95_test_vectors.md section 2.9). -/
def busFrame (f : Frame) (s : State) : Host.Outcome State Fault Refusal :=
  match decodeFrame f with
  | .ok i => exec i s
  | .error _ => unmappedFrame (commandByteOf f) s

/-- The reset input as a step. -/
def resetInput (s : State) : Host.Outcome State Fault Refusal :=
  match applyReset s with
  | .ok s' => .next s'
  | .error r => .refused r

/-- One input of the environment, taken while the controller is idle. -/
def takeInput (x : Input) (s : State) : Host.Outcome State Fault Refusal :=
  match x with
  | .host w => hostCommand w s
  | .hostByLine w => hostCommandByLine w s
  | .internal w => internalOperation w s
  | .frame f => busFrame f s
  | .tick => .next (tick s)
  | .reset => resetInput s

/-- A step between commands: the next input, or nothing when the environment presents nothing. -/
def stepIdle (s : State) : Host.Outcome State Fault Refusal :=
  match s.inbox with
  | [] => .next s
  | x :: rest => takeInput x { s with inbox := rest }

/-- A step while a command runs: a TICK or a reset that comes now, else one line event. The port takes no further
command before this one is complete (30_encoding.md R97). DESIGN CHOICE: a TICK or a reset at the head of the inputs comes
at once, so that in a run from an idle state it falls before the first line event of a command; one that falls later is
met in the states that hold a command halfway (log entry 21, and 70_reset_and_hazards.md R281, which lets a model
restrict when a reset falls). DESIGN CHOICE: an operation outside the contract is cut by a reset like any other, also after
its offending frame has begun, and the step answers a next state; 20_memory.md R64 gives that frame no meaning and R281
does not single it out (log entry 23). -/
def stepRunning (i : Instr) (done : List Bool) (s : State) : Host.Outcome State Fault Refusal :=
  match s.inbox with
  | .tick :: rest => .next (tick { s with inbox := rest })
  | .reset :: rest => resetInput { s with inbox := rest }
  | _ => advance i done s

/-- The input that makes the next step run the instruction of an opcode-table word: a host command where a host may
issue it, the operation alone where it is internal (30_encoding.md R101), a frame for a bus command. -/
def inputOfTableWord (nbits w : Nat) : Option Input :=
  match codeOfTableWord nbits w with
  | .ok (.host c) =>
    match decodeOp c with
    | .ok i => some (if i.isInternal then .internal c else .host c)
    | .error _ => some (.host c)
  | .ok (.bus f) => some (.frame f)
  | .error _ => none

end Sys2Proof.Machine
end

