-- ==== Sys2Proof/Machine/Step.lean ====
section
/-! DEFINITION. One step of the machine, and the placing of an instruction for the next step. -/

namespace Sys2Proof.Machine

/-- One step: an input taken between commands, or one line event of the command that runs. -/
def step (s : State) : Host.Outcome State Fault Refusal :=
  match s.seq with
  | .idle => stepIdle s
  | .running i done => stepRunning i done s

/-- The state with the instruction of an opcode-table word as what the environment presents next, and the sequencer idle
so that the port takes it. -/
def State.withFetchWord (s : State) (nbits w : Nat) : State :=
  match inputOfTableWord nbits w with
  | some x => { s with seq := .idle, inbox := x :: s.inbox }
  | none => s

end Sys2Proof.Machine
end

