-- ==== Sys2Proof/Machine/Transactions.lean ====
section
/-! DEFINITION. The transaction level (00_scope.md R12, R14): a frame as one atomic DevRead or DevWrite, with the TICK
steps of the schedule before it, and the composite operations over such frames (30_encoding.md R106). The machine itself
runs at the line level; that the two agree (47_device_target.md R222) is a statement about these definitions, and the
statements about commands are written with them. -/

namespace Sys2Proof.Machine

/-- No frame is open: CS and CLK low, as between operations (10_state.md R21, R22). -/
abbrev AtRest (s : State) : Prop := s.cs = false ∧ s.clk = false

/-- The schedule puts no TICK before the next `n` frames: the spec's "no TICK in between". -/
def quiet (n : Nat) (s : State) : Bool := (s.ticks.take n).all (· == 0)

/-- The same for the `n` frames after the next `k`. -/
def quietFrom (k n : Nat) (s : State) : Bool := ((s.ticks.drop k).take n).all (· == 0)

/-- A device reacts to what the controller does on the lines. -/
abbrev Listens (s : State) : Prop := s.par.link ≠ .absent

/-- A device reacts, and what it answers arrives: the device is attached and the bus is good. -/
abbrev Answers (s : State) : Prop := s.par.link = .attached

/-- At rest, with a device that answers. -/
abbrev Ready (s : State) : Prop := AtRest s ∧ Answers s

/-- The lines and the bus slave as a frame leaves them: DATA direction `d` and last driven level `b`, nothing driven by
the device (10_state.md R23, R24, R51). -/
def closeFrame (d : Dir) (b : Bool) (s : State) : State :=
  { s with dir := d, dout := b, bus := slaveIdle s }

/-- Eight samples of DATA, each a draw, least significant first: the byte RXB assembles where no level arrives
(40_serial_bus_driver.md R122, 93_implementation_defined.md U2). -/
def drawSamples (s : State) : Byte × State :=
  (lsbFirst.foldl (fun r i => setBit r i (Config.anyLevel (s.draws + i))) 0#8, { s with draws := s.draws + 8 })

/-- `MemRead(addr, 1)`: a read frame, `DevRead(addr)` after the TICK steps before it (00_scope.md R12). On a bad bus the
device does the same and the byte received is any; with no device it is any byte too (60_exceptions.md R252). -/
def memRead (a : Byte) (s : State) : Byte × State :=
  match s.par.link with
  | .attached =>
    let r := devRead (frameTicks s) a
    (r.1, closeFrame .input (bitOf a 7) (busRead a r.1 r.2))
  | .badBus =>
    let r := devRead (frameTicks s) a
    let x := drawSamples (busRead a r.1 r.2)
    (x.1, closeFrame .input (bitOf a 7) x.2)
  | .absent =>
    let x := drawSamples (frameTicks s)
    (x.1, closeFrame .input (bitOf a 7) x.2)

/-- `MemWrite(addr, 1, v)` at a mapped write address `a` of place `p`: a write frame, `DevWrite(addr, v)` after the TICK
steps before it (00_scope.md R12). With no device nothing stores it (60_exceptions.md R252). -/
def memWrite (a v : Byte) (p : Place) (s : State) : State :=
  closeFrame .output (bitOf v 7) (if deviceListens s then busWrite a v p (frameTicks s) else frameTicks s)

/-- WRPROT: unlock, write, re-lock (41_register_access.md R133). -/
def memWriteProtected (a v : Byte) (p : Place) (s : State) : State :=
  memWrite (regWriteAddr .wp) wpLock (.reg .wp)
    (memWrite a v p (memWrite (regWriteAddr .wp) wpUnlock (.reg .wp) s))

/-- A get of field `f`: the value and its decode-error bit, and the state after (43_calendar_fields.md R150). -/
def memGet (f : Field) (s : State) : (Half × Bool) × State :=
  let r := memRead (regReadAddr (fieldReg f)) s
  ((fieldValue f r.1, decodeErr f r.1), r.2)

/-- A set of field `f` (43_calendar_fields.md R150). -/
def memSet (f : Field) (v : Half) (s : State) : State :=
  memWriteProtected (regWriteAddr (fieldReg f)) (fieldByte f v) (.reg (fieldReg f)) s

/-- STOP (44_oscillator_control.md R182). -/
def memStop (s : State) : State :=
  let r := memRead (regReadAddr .sec) s
  memWriteProtected (regWriteAddr .sec) (r.1 ||| 0x80#8) (.reg .sec) r.2

/-- START (44_oscillator_control.md R181). -/
def memStart (s : State) : State :=
  let r := memRead (regReadAddr .sec) s
  memWriteProtected (regWriteAddr .sec) (r.1 &&& 0x7F#8) (.reg .sec) r.2

/-- GETDT (45_snapshot.md R190). -/
def memGetDateTime (s : State) : Snapshot × State :=
  let x0 := memGet .year s
  let x1 := memGet .month x0.2
  let x2 := memGet .day x1.2
  let x3 := memGet .weekday x2.2
  let x4 := memGet .hour x3.2
  let x5 := memGet .minute x4.2
  let x6 := memGet .second x5.2
  ({ res := { r0 := x0.1.1, r1 := x1.1.1, r2 := x2.1.1, r3 := x3.1.1, r4 := x4.1.1, r5 := x5.1.1, r6 := x6.1.1 }
     derr := packDerr x0.1.2 x1.1.2 x2.1.2 x3.1.2 x4.1.2 x5.1.2 x6.1.2 }, x6.2)

/-- SETDT (45_snapshot.md R191). -/
def memSetDateTime (y mo d w h mi sec : Half) (s : State) : State :=
  memSet .second sec (memSet .minute mi (memSet .hour h (memSet .weekday w (memSet .day d (memSet .month mo
    (memSet .year y s))))))

/-- The loop of GETDT.A after a snapshot `p`, with `n` retries left (45_snapshot.md R193). -/
def memReread : Nat → Snapshot → State → Response × State
  | 0, p, s =>
    let q := memGetDateTime s
    (snapshotResult q.1 (decide (q.1 ≠ p)), q.2)
  | n + 1, p, s =>
    let q := memGetDateTime s
    if q.1 = p then (snapshotResult q.1 false, q.2) else memReread n q.1 q.2

/-- The state after `k` snapshots in a row. -/
def memGetDateTimes : Nat → State → State
  | 0, s => s
  | k + 1, s => memGetDateTimes k (memGetDateTime s).2

/-- The snapshot read after `k` others in a row: GETDT.A reads those of `k` = 0, 1, ... (45_snapshot.md R193). -/
def snapshotAt (k : Nat) (s : State) : Snapshot := (memGetDateTime (memGetDateTimes k s)).1

/-- The snapshot that the calendar registers `c` decode to (45_snapshot.md R190). -/
def snapshotOf (c : Calendar) : Snapshot where
  res :=
    { r0 := fieldValue .year c.yr
      r1 := fieldValue .month c.mon
      r2 := fieldValue .day c.day
      r3 := fieldValue .weekday c.wday
      r4 := fieldValue .hour c.hr
      r5 := fieldValue .minute c.min
      r6 := fieldValue .second c.sec }
  derr :=
    packDerr (decodeErr .year c.yr) (decodeErr .month c.mon) (decodeErr .day c.day) (decodeErr .weekday c.wday)
      (decodeErr .hour c.hr) (decodeErr .minute c.min) (decodeErr .second c.sec)

/-- The calendar registers that a snapshot's seven operands encode to (45_snapshot.md R191). -/
def calendarOf (y mo d w h mi sec : Half) : Calendar where
  sec  := fieldByte .second sec
  min  := fieldByte .minute mi
  hr   := fieldByte .hour h
  day  := fieldByte .day d
  mon  := fieldByte .month mo
  wday := fieldByte .weekday w
  yr   := fieldByte .year y

end Sys2Proof.Machine
end

