-- ==== Sys2Proof/Safety.lean ====
section
/-! DEFINITION. What counts as a sound state and a sound run, in the terms the claims use: the invariants every step
keeps, the contract of the operations, the counts over a bus trace. -/

namespace Sys2Proof.Machine

/-! ### Invariants -/

/-- The RAM cells are in canonical form. -/
abbrev RamSound (s : State) : Prop := Memory.wf s.regs.ram = true

/-- STATUS bits 15:9 are 0 (10_state.md R29). -/
abbrev StatusSound (s : State) : Prop := s.status.extractLsb' 9 7 = 0#7

/-- Whenever CS = 0, and always where no device is attached, no frame is open on the device and it drives nothing; a
frame has at most 16 rising edges (10_state.md R51, 47_device_target.md R211, R219). -/
abbrev BusSound (s : State) : Prop :=
  (s.cs = false ∨ s.par.link = .absent → s.bus.cnt = 0 ∧ s.bus.drv = false) ∧ s.bus.cnt ≤ 16

/-- The levels of CS and CLK after a line event. -/
def linesAfter : LineEvent → Bool × Bool → Bool × Bool
  | .cs b, l => (b, l.2)
  | .clk b, l => (l.1, b)
  | .dir _, l => l
  | .dout _, l => l
  | .sample, l => l

/-- However the sampled levels fall, what is left of an operation brings CS and CLK from the levels `l` to rest
(10_state.md R21, R22). -/
def Ctrl.endsAtRest {α : Type} : Ctrl α → Bool × Bool → Prop
  | .done _, l => l = (false, false)
  | .refuse _, _ => True
  | .event e k, l => ∀ b, (k b).endsAtRest (linesAfter e l)
  | .outside _ e k, l => ∀ b, (k b).endsAtRest (linesAfter e l)

/-- Between commands CS and CLK are low; while a command runs, what is left of it brings them low
(10_state.md R21, R22, R30). -/
def LinesSound (s : State) : Prop :=
  match s.seq with
  | .idle => AtRest s
  | .running i done =>
    match operation s.par i with
    | some p => (p.after done).endsAtRest (s.cs, s.clk)
    | none => False

/-- The invariant of the machine. -/
structure Sound (s : State) : Prop where
  ram    : RamSound s
  status : StatusSound s
  bus    : BusSound s
  lines  : LinesSound s

/-! ### The contract of the operations -/

/-- The operands are within the contract: an odd address for RDREG, a mapped write address for WRREG and WRPROT
(20_memory.md R63, R64; 47_device_target.md R224), an encodable slot for the RAM commands. -/
def InContract : Instr → Prop
  | .rdreg a => bitOf a 0 = true
  | .wrreg a _ => (writePlace a).isSome = true
  | .wrprot a _ => (writePlace a).isSome = true
  | .wrRam s _ => slotEncodable s = true
  | .rdRam s => slotEncodable s = true
  | _ => True

/-! ### Families of instructions -/

/-- GET.f (43_calendar_fields.md R151 to R157). -/
def getInstr : Field → Instr
  | .second => .getSec
  | .minute => .getMin
  | .hour => .getHr
  | .day => .getDay
  | .month => .getMon
  | .weekday => .getWday
  | .year => .getYr

/-- SET.f (43_calendar_fields.md R158 to R164). -/
def setInstr (f : Field) (v : Half) : Instr :=
  match f with
  | .second => .setSec v
  | .minute => .setMin v
  | .hour => .setHr v
  | .day => .setDay v
  | .month => .setMon v
  | .weekday => .setWday v
  | .year => .setYr v

/-- The write command of a named register (47_device_target.md R225 to R241). -/
def writeInstr (r : Reg) (d : Byte) : Instr :=
  match r with
  | .sec => .wrSec d
  | .min => .wrMin d
  | .hr => .wrHr d
  | .day => .wrDay d
  | .mon => .wrMon d
  | .wday => .wrWday d
  | .yr => .wrYr d
  | .wp => .wrWp d
  | .ctl => .wrCtl d

/-- The read command of a named register (47_device_target.md R226 to R242). -/
def readInstr : Reg → Instr
  | .sec => .rdSec
  | .min => .rdMin
  | .hr => .rdHr
  | .day => .rdDay
  | .mon => .rdMon
  | .wday => .rdWday
  | .yr => .rdYr
  | .wp => .rdWp
  | .ctl => .rdCtl

/-- The operations that may raise a flag of their own: the gets and the snapshots (10_state.md R29). -/
def raisesFlags : Instr → Bool
  | .getSec => true
  | .getMin => true
  | .getHr => true
  | .getDay => true
  | .getMon => true
  | .getWday => true
  | .getYr => true
  | .getdt => true
  | .getdtA => true
  | _ => false

/-- The second of the day that the time registers show. -/
def timeOfDay (c : Calendar) : Nat :=
  bcdToDecimal c.hr.toNat * 3600 + bcdToDecimal c.min.toNat * 60 + bcdToDecimal c.sec.toNat

/-- The date registers of a calendar. -/
def dateOf (c : Calendar) : DateRegs := { day := c.day, mon := c.mon, wday := c.wday, yr := c.yr }

/-! ### What a frame statement says is unchanged -/

/-- Everything the model keeps beside the spec's state but the draw counter and the TICK schedule, and the sequencer. -/
def SameEnvironment (s t : State) : Prop := t.seq = s.seq ∧ t.par = s.par ∧ t.inbox = s.inbox

/-- The device's write-protect register, control register and every RAM slot. -/
def SameBesidesCalendar (s t : State) : Prop :=
  t.regs.wp = s.regs.wp ∧ t.regs.ctl = s.regs.ctl ∧ ∀ a, Memory.read t.regs.ram a = Memory.read s.regs.ram a

/-- Every named register and RAM slot but the place `p` and the write-protect register. -/
def SamePlacesBut (p : Place) (s t : State) : Prop :=
  ∀ q, q ≠ p → q ≠ .reg .wp → placeRead t.regs q = placeRead s.regs q

/-- The controller's lines, response and sequencer, and the environment. -/
def SameController (s t : State) : Prop :=
  t.cs = s.cs ∧ t.clk = s.clk ∧ t.dir = s.dir ∧ t.dout = s.dout ∧ t.res = s.res ∧ t.status = s.status ∧
    SameEnvironment s t ∧ t.ticks = s.ticks

/-! ### Bus traces (00_scope.md R11) and their counts (70_reset_and_hazards.md R310) -/

/-- The line events of TXB (40_serial_bus_driver.md R121). -/
def txEvents (v : Byte) : List LineEvent :=
  .dir .output :: [0, 1, 2, 3, 4, 5, 6, 7].flatMap fun i => [.dout (bitOf v i), .clk true, .clk false]

/-- The line events of RXB (40_serial_bus_driver.md R122). -/
def rxEvents : List LineEvent :=
  .dir .input :: [0, 1, 2, 3, 4, 5, 6, 7].flatMap fun _ => [.sample, .clk true, .clk false]

/-- The line events of a read frame with command byte `a` (41_register_access.md R131). -/
def readEvents (a : Byte) : List LineEvent := .cs true :: (txEvents a ++ rxEvents ++ [.cs false])

/-- The line events of a write frame `(a,v)` (41_register_access.md R132). -/
def writeEvents (a v : Byte) : List LineEvent := .cs true :: (txEvents a ++ txEvents v ++ [.cs false])

/-- The line events of the three frames `(8E,00)`, `(a,v)`, `(8E,80)` (41_register_access.md R133). -/
def protectedEvents (a v : Byte) : List LineEvent := writeEvents 0x8E#8 0x00#8 ++ writeEvents a v ++ writeEvents 0x8E#8 0x80#8

/-- The line events of the seven read frames of GETDT, in its fixed order (45_snapshot.md R190). -/
def snapshotReadEvents : List LineEvent :=
  readEvents 0x8D#8 ++ readEvents 0x89#8 ++ readEvents 0x87#8 ++ readEvents 0x8B#8 ++ readEvents 0x85#8 ++
    readEvents 0x83#8 ++ readEvents 0x81#8

/-- The line events of the 21 write frames of SETDT, in its fixed order (45_snapshot.md R191). -/
def snapshotWriteEvents (y mo d w h mi sec : Half) : List LineEvent :=
  protectedEvents 0x8C#8 (fieldByte .year y) ++ protectedEvents 0x88#8 (fieldByte .month mo) ++
    protectedEvents 0x86#8 (fieldByte .day d) ++ protectedEvents 0x8A#8 (fieldByte .weekday w) ++
    protectedEvents 0x84#8 (fieldByte .hour h) ++ protectedEvents 0x82#8 (fieldByte .minute mi) ++
    protectedEvents 0x80#8 (fieldByte .second sec)

/-- Frames: chip-select assertions. -/
def framesIn (tr : List LineEvent) : Nat := tr.count (.cs true)

/-- Bytes: each byte begins with its one direction event (40_serial_bus_driver.md R125). -/
def bytesIn (tr : List LineEvent) : Nat := tr.countP fun e => e = .dir .output ∨ e = .dir .input

/-- Transitions of CLK from the level `l`. -/
def clkTransitions : Bool → List LineEvent → Nat
  | _, [] => 0
  | l, .clk b :: rest => (if b = l then 0 else 1) + clkTransitions b rest
  | l, _ :: rest => clkTransitions l rest

/-- Transitions of CS from the level `l`. -/
def csTransitions : Bool → List LineEvent → Nat
  | _, [] => 0
  | l, .cs b :: rest => (if b = l then 0 else 1) + csTransitions b rest
  | l, _ :: rest => csTransitions l rest

/-- A trace of `n` frames as R310 counts it: 2 bytes, 32 transitions of CLK, 2 of CS and 52 line events a frame. -/
def IsFrames (n : Nat) (tr : List LineEvent) : Prop :=
  framesIn tr = n ∧ bytesIn tr = 2 * n ∧ clkTransitions false tr = 32 * n ∧ csTransitions false tr = 2 * n ∧
    tr.length = 52 * n

end Sys2Proof.Machine
end

