-- ==== Sys2Proof/Certificates/Slice0/Obligations.lean ====
section
/-! DEFINITION. The statements for the provers, each a proposition about the machine. A statement says which rule of the
spec it formalises; `AtRest` (no frame open) and `RamSound` (the RAM cells in canonical form) are parts of the invariant
`Sound`, which `SoundAtReset` and `SoundKept` state. Where a statement says `quiet n s`, it is the spec's "no TICK in
between": the schedule of the state puts none before the next `n` frames; `quietFrom k n s` says the same of the `n`
frames after the next `k`. Where a statement says `Listens s`, a device reacts to the lines; `Answers s`, it does and what it
drives arrives; `Ready s`, the same at rest (60_exceptions.md R252, log entry 20). A statement without these words holds with
no device and on a bad bus too. -/

open Sys2Proof Sys2Proof.Machine

/-! ### Encoding -/

/-- Decoding the code of a well-formed instruction gives the instruction back (30_encoding.md R90, R92, R95, R96,
R100). -/
def Obligations.DecodeEncode : Prop :=
  ∀ i : Instr, i.wellFormed = true → decode (encode i) = .ok i

/-- Every word has one meaning: a command word that decodes is the encoding of what it decodes to, and so is a write
frame; a read frame agrees in its command byte, its data byte being the device's answer (30_encoding.md R90, R99). -/
def Obligations.OneMeaningPerWord : Prop :=
  (∀ w i, decodeOp w = .ok i → encode i = .host w) ∧
  (∀ f i, decodeFrame f = .ok i →
    ∃ g, encode i = .bus g ∧ commandByteOf g = commandByteOf f ∧ (bitOf (commandByteOf f) 0 = false → g = f))

/-- A host command word is legal exactly when it is the encoding of an operation that is not internal and, if optional,
present; no operand value beyond the must-be-zero bits makes a word illegal (30_encoding.md R99, R101). -/
def Obligations.LegalHostWords : Prop :=
  ∀ (hasAtomicDT : Bool) (w : CmdWord) (i : Instr),
    hostDecode hasAtomicDT w = .ok i ↔
      encode i = .host w ∧ i.isInternal = false ∧ (i.isOptional = true → hasAtomicDT = true)

/-- Words written out by the spec (95_test_vectors.md sections 2.3 to 2.10 and 3) and frames of 30_encoding.md R92. That
an 8-bit word of the opcode table is a command byte whose data byte is then 0 (`0x80`, `0x91`, `0xFD`) is the model's
choice, log entry 8: the spec writes no such frame. -/
def Obligations.SpecWordsDecode : Prop :=
  decodeTableWord 120 0x000000000000000000000000008110 = some (.rdreg 0x81#8) ∧
  decodeTableWord 120 0x000000000000000000000018008412 = some (.wrprot 0x84#8 0x18#8) ∧
  decodeTableWord 120 0x000000000000000000000000002D20 = some (.d2b 45#8) ∧
  decodeTableWord 120 0x000000000000000000000000004521 = some (.b2d 0x45#8) ∧
  decodeTableWord 120 0x000000000000000000000000001242 = some (.setHr 18#16) ∧
  decodeTableWord 120 0x000000000000000000000000000050 = some .start ∧
  decodeTableWord 120 0x002D0003001200050019000307E661 = some (.setdt 2022#16 3#16 25#16 5#16 18#16 3#16 45#16) ∧
  decodeTableWord 120 0x0000000000000000000000FF001E71 = some (.setram 30#16 0xFF#8) ∧
  decodeTableWord 8 0x80 = some (.wrSec 0#8) ∧
  decodeTableWord 8 0x91 = some .rdCtl ∧
  decodeTableWord 16 0xABC0 = some (.wrRam 0#5 0xAB#8) ∧
  decodeTableWord 8 0xFD = some (.rdRam 30#5) ∧
  hostDecode true 0x000000000000000000000000004501#120 = .error .internalOperation ∧
  hostDecode true 0x000000000000000000000000018110#120 = .error .mustBeZero ∧
  hostDecode true 0#120 = .error .unlistedOpcode ∧
  hostDecode false 0x000000000000000000000000000062#120 = .error .absentOption ∧
  decodeFrame 0x00FE#16 = .error .unmappedCommand

/-- The address map, address by address: the nine registers at 0x80 to 0x90 (to write) and 0x81 to 0x91 (to read), RAM
slot `n` at `0xC0 + 2n` and `0xC1 + 2n`; 80 mapped addresses and no more, write addresses even and read addresses odd,
and the read address of a place is its write address plus 1 (20_memory.md R61, R63; 10_state.md R40). -/
def Obligations.AddressMap : Prop :=
  (writePlace 0x80#8 = some (.reg .sec) ∧ writePlace 0x82#8 = some (.reg .min) ∧ writePlace 0x84#8 = some (.reg .hr) ∧
    writePlace 0x86#8 = some (.reg .day) ∧ writePlace 0x88#8 = some (.reg .mon) ∧ writePlace 0x8A#8 = some (.reg .wday) ∧
    writePlace 0x8C#8 = some (.reg .yr) ∧ writePlace 0x8E#8 = some (.reg .wp) ∧ writePlace 0x90#8 = some (.reg .ctl)) ∧
  (readPlace 0x81#8 = some (.reg .sec) ∧ readPlace 0x83#8 = some (.reg .min) ∧ readPlace 0x85#8 = some (.reg .hr) ∧
    readPlace 0x87#8 = some (.reg .day) ∧ readPlace 0x89#8 = some (.reg .mon) ∧ readPlace 0x8B#8 = some (.reg .wday) ∧
    readPlace 0x8D#8 = some (.reg .yr) ∧ readPlace 0x8F#8 = some (.reg .wp) ∧ readPlace 0x91#8 = some (.reg .ctl)) ∧
  (∀ n, n < 31 → writePlace (BitVec.ofNat 8 (0xC0 + 2 * n)) = some (.ram n) ∧
    readPlace (BitVec.ofNat 8 (0xC1 + 2 * n)) = some (.ram n)) ∧
  ((List.range 256).countP fun n => (writePlace (BitVec.ofNat 8 n)).isSome || (readPlace (BitVec.ofNat 8 n)).isSome) = 80 ∧
  (∀ a : Byte, (writePlace a).isSome = true → bitOf a 0 = false) ∧
  (∀ a : Byte, (readPlace a).isSome = true → bitOf a 0 = true) ∧
  (∀ a : Byte, bitOf a 0 = false → readPlace (a ||| 1#8) = writePlace a)

/-- The address formula of the RAM operations: slot `s` goes to `0xC0 + (s % 31) * 2` to write and to that plus 1 to
read, addresses that are always mapped and name the cell `s % 31` (46_ram.md R200). -/
def Obligations.RamAddressFormula : Prop :=
  ∀ slot : Half,
    (ramWriteAddr slot).toNat = 0xC0 + slot.toNat % 31 * 2 ∧
    (ramReadAddr slot).toNat = 0xC0 + slot.toNat % 31 * 2 + 1 ∧
    writePlace (ramWriteAddr slot) = some (.ram (slot.toNat % 31)) ∧
    readPlace (ramReadAddr slot) = some (.ram (slot.toNat % 31))

/-! ### The step -/

/-- A step runs the decoded instruction: a legal host word, an operation taken alone, a frame of the bus map; the input
is consumed and nothing else is added around `exec`. With no input nothing changes. `withFetchWord` places an
instruction of the opcode table so that the next step runs it. The model's choices: the inputs, the step without one and
`withFetchWord` are log entry 8, an operation taken alone is log entry 9, a frame applied to the device alone log entry
10. -/
def Obligations.StepRunsDecoded : Prop :=
  (∀ s w i rest, s.seq = .idle → s.inbox = .host w :: rest → hostDecode s.par.hasAtomicDT w = .ok i →
    step s = exec i { s with inbox := rest }) ∧
  (∀ s w i rest, s.seq = .idle → s.inbox = .internal w :: rest → decodeOp w = .ok i →
    step s = exec i { s with inbox := rest }) ∧
  (∀ s f i rest, s.seq = .idle → s.inbox = .frame f :: rest → decodeFrame f = .ok i →
    step s = exec i { s with inbox := rest }) ∧
  (∀ s, s.seq = .idle → s.inbox = [] → step s = .next s) ∧
  (∀ (s : State) nbits w i, decodeTableWord nbits w = some i → (i.isOptional = true → s.par.hasAtomicDT = true) →
    step (s.withFetchWord nbits w) = exec i { s with seq := .idle })

/-- An illegal command word, presented for one step or line by line, is refused: no line event, no change to any device or
line state, `RES <- 0`, `STATUS <- 0x0100`; and `ILL` does not persist, for no legal command leaves it set
(60_exceptions.md R253). That a word presented line by line completes in the step that presents it is the model's choice,
log entry 11 (10_state.md R30). -/
def Obligations.IllegalWordRefused : Prop :=
  (∀ s w r rest, s.seq = .idle → s.inbox = .host w :: rest ∨ s.inbox = .hostByLine w :: rest →
    hostDecode s.par.hasAtomicDT w = .error r →
    step s = .next { s with inbox := rest, res := Results.zero, status := 0x0100#16 }) ∧
  (∀ s t w i, hostDecode s.par.hasAtomicDT w = .ok i → exec i s = .next t → statusIll t.status = false)

/-- Every instruction within its contract completes, and leaves the lines at rest: no fault, no hang, no refusal
(00_scope.md R13, 41_register_access.md R134, 60_exceptions.md R252). -/
def Obligations.InContractCompletes : Prop :=
  ∀ i s, AtRest s → InContract i → ∃ t, exec i s = .next t ∧ AtRest t

/-- Outside the contract the model refuses, by name: RDREG with an even address, WRREG and WRPROT with an odd one
(20_memory.md R64), a write frame to an unmapped address of a device (47_device_target.md R224). That the operation is
refused as a whole is log entry 15. -/
def Obligations.OutOfContractRefused : Prop :=
  (∀ a s, bitOf a 0 = false → exec (.rdreg a) s = .refused .readFromWriteAddress) ∧
  (∀ a v s, bitOf a 0 = true → exec (.wrreg a v) s = .refused .writeToReadAddress) ∧
  (∀ a v s, AtRest s → bitOf a 0 = true → exec (.wrprot a v) s = .refused .writeToReadAddress) ∧
  (∀ a v s, AtRest s → Listens s → bitOf a 0 = false → writePlace a = none →
    exec (.wrreg a v) s = .refused .unmappedWrite) ∧
  (∀ a v s, AtRest s → Listens s → bitOf a 0 = false → writePlace a = none →
    exec (.wrprot a v) s = .refused .unmappedWrite)

/-- The controller makes no check: for every 8-bit address, inside the contract or outside it, and in every state, RDREG,
WRREG and WRPROT emit exactly the line events of 41_register_access.md R131 to R133 (20_memory.md R64, 00_scope.md R13,
41_register_access.md R134). That the model refuses the operation outside the contract is `OutOfContractRefused`. -/
def Obligations.LineEventsForEveryAddress : Prop :=
  (∀ a s, (rdregProg a).trace s = readEvents a) ∧
  (∀ a v s, (wrregProg a v).trace s = writeEvents a v) ∧
  (∀ a v s, (wrprotProg a v).trace s = protectedEvents a v)

/-- One step of a running command is its next line event, inside the contract or outside it: the event with the device's
reaction, and then the position after it, or the response and the idle position after the last (10_state.md R30). An
operation outside the contract is refused at its last event (20_memory.md R64; that it is refused there and not before is
the model's choice, log entry 15). -/
def Obligations.StepIsOneLineEvent : Prop :=
  ∀ s t i p done e k b, s.seq = .running i done → s.inbox.head? ≠ some .tick → s.inbox.head? ≠ some .reset →
    operation s.par i = some p → (p.after done = .event e k ∨ ∃ r, p.after done = .outside r e k) →
    lineEvent e s = .ok (b, t) →
    p.after (done ++ [b]) = k b ∧
    (∀ r, k b = .done r → step s = .next { respond r t with seq := .idle }) ∧
    (∀ r, k b = .refuse r → step s = .refused r) ∧
    ((∀ r, k b ≠ .done r) → (∀ r, k b ≠ .refuse r) → step s = .next { t with seq := .running i (done ++ [b]) })

/-- A command run line event by line event, from the step that presents it to the step of its last line event, ends as
the same command run in one step does (10_state.md R30, 30_encoding.md R97). The inputs that follow hold no TICK and no
reset at their head, which would fall inside the command. That a command may be run in either way is the model's, log
entry 11. -/
def Obligations.LineByLine : Prop :=
  ∀ s w i p rest, s.seq = .idle → s.inbox = .hostByLine w :: rest → rest.head? ≠ some .tick → rest.head? ≠ some .reset →
    hostDecode s.par.hasAtomicDT w = .ok i → operation s.par i = some p →
    Sys2Proof.core.run (1 + (p.trace { s with inbox := rest }).length) s = exec i { s with inbox := rest }

/-! ### The line level -/

/-- TXB taken alone, which ends with the empty response by the model's choice (log entry 9): the bus trace is a
direction event and, for each bit, least significant first, the data event and one clock pulse, 25 events; the operation
leaves DIR out, DOUT at bit 7, CLK low and CS as it was; with CS low the device ignores it, at the start of a frame the
device has the command byte after it, and in a write frame it stores the data byte by `DevWrite`
(40_serial_bus_driver.md R120, R121). -/
def Obligations.TransmitByte : Prop :=
  (∀ v s t, s.clk = false → (transmitByte v).run s = .ok ((), t) →
    (transmitByte v).trace s = txEvents v ∧ (txEvents v).length = 25 ∧
    t.dir = .output ∧ t.dout = bitOf v 7 ∧ t.clk = false ∧ t.cs = s.cs) ∧
  (∀ v s, AtRest s → exec (.txb v) s = .next (respond noResult { s with dir := .output, dout := bitOf v 7 })) ∧
  (∀ v s, Listens s → s.cs = true → s.clk = false → s.bus.cnt = 0 → s.bus.drv = false →
    ∃ t, exec (.txb v) s = .next t ∧ t.res = Results.zero ∧ t.status = 0#16 ∧ t.regs = s.regs ∧ t.bus.cmd = v ∧
      t.bus.cnt = 8 ∧ SameEnvironment s t ∧ t.ticks = s.ticks) ∧
  (∀ v p s, Listens s → s.cs = true → s.clk = false → s.bus.cnt = 8 → s.bus.drv = false →
    bitOf s.bus.cmd 0 = false → writePlace s.bus.cmd = some p →
    ∃ t, exec (.txb v) s = .next t ∧ t.res = Results.zero ∧ t.status = 0#16 ∧ t.regs = storeAt s.regs p v ∧
      t.bus.cnt = 16 ∧ SameEnvironment s t ∧ t.ticks = s.ticks ∧ t.draws = s.draws) ∧
  (∀ v, encode (.txb v) = .host (word1 0x01#8 (byteField v)) ∧ (Instr.txb v).isInternal = true)

/-- RXB taken alone, whose response has the byte in `RES[0]` and zeros elsewhere by the model's choice (log entry 9):
the bus trace is a direction event and, for each bit, the sample and then one clock pulse, 25 events; DIR is left in,
CLK low, CS and DOUT as they were. Inside a read frame the byte is the one the device latched; with nothing driving DATA
each sample is a draw, so the byte is any value (40_serial_bus_driver.md R122, 10_state.md R25). The draws are free
values: the statement holds whatever they are. -/
def Obligations.ReceiveByte : Prop :=
  (∀ s r t, s.clk = false → receiveByte.run s = .ok (r, t) →
    receiveByte.trace s = rxEvents ∧ rxEvents.length = 25 ∧ t.dir = .input ∧ t.clk = false ∧ t.cs = s.cs ∧
    t.dout = s.dout) ∧
  (∀ s, Answers s → s.cs = true → s.clk = false → s.bus.cnt = 8 → s.bus.drv = true →
    s.bus.dbit = bitOf s.bus.rlat 0 → bitOf s.bus.cmd 0 = true →
    ∃ t, exec .rxb s = .next t ∧ t.res = oneResult (zext16 s.bus.rlat) ∧ t.status = 0#16 ∧ t.dir = .input ∧
      t.clk = false ∧ t.cs = true ∧ t.regs = s.regs ∧ t.bus.cnt = 16 ∧ t.bus.drv = false ∧
      SameEnvironment s t ∧ t.ticks = s.ticks ∧ t.draws = s.draws) ∧
  (∀ s, AtRest s → s.bus.drv = false →
    ∃ r : Byte, (∀ i, i < 8 → bitOf r i = Config.anyLevel (s.draws + i)) ∧
      exec .rxb s = .next (respond (valueResult (zext16 r)) { s with dir := .input, draws := s.draws + 8 })) ∧
  encode .rxb = .host (word0 0x02#8) ∧ Instr.rxb.isInternal = true

/-- While CS = 0 the device ignores CLK and DATA: no line event but the rise of CS reaches it (47_device_target.md
R211). -/
def Obligations.DeselectedDeviceIgnores : Prop :=
  ∀ e s b t, s.cs = false → e ≠ .cs true → lineEvent e s = .ok (b, t) → t.regs = s.regs ∧ t.bus = s.bus

/-- The two levels agree: the 52 line events of a read register are `DevRead` at the transaction level, and those of a
write register one `DevWrite`, the TICK steps of the schedule falling before the frame (47_device_target.md R222;
41_register_access.md R131, R132). -/
def Obligations.LevelsAgree : Prop :=
  (∀ a s, AtRest s → bitOf a 0 = true → (readRegister a).run s = .ok (memRead a s)) ∧
  (∀ a v p s, AtRest s → writePlace a = some p → (writeRegister a v).run s = .ok ((), memWrite a v p s))

/-- A TICK inside a frame may be moved past every line event but the rising edges that complete a command byte or a data
byte and the fall of CS that cuts a write: a frame touches the register file at one instant (47_device_target.md R217,
R218, R222). The 16th rising edge of a read frame, which touches no register, is among the edges left out. -/
def Obligations.TickMovesPastLineEvents : Prop :=
  ∀ e s, (e = .clk true → s.bus.cnt ≠ 7 ∧ s.bus.cnt ≠ 15) → (e = .cs false → writeOpen s.bus = false) →
    lineEvent e (tick s) =
      match lineEvent e s with
      | .ok (b, t) => .ok (b, tick t)
      | .error r => .error r

/-- Counts over the bus trace, from rest: one frame is 2 bytes, 32 transitions of CLK, 2 of CS and 52 line events;
RDREG, GET.f and GETRAM are 1 frame, WRPROT, SET.f and SETRAM 3, START and STOP 4, GETDT 7, SETDT 21, SETDT.A 29, GETDT.A
14 to 7 (`ATOMIC_RETRY_MAX` + 2), the codec none (70_reset_and_hazards.md R310; 41_register_access.md R136). -/
def Obligations.FrameCounts : Prop :=
  ∀ s, AtRest s →
    (∀ a, bitOf a 0 = true → IsFrames 1 ((rdregProg a).trace s)) ∧
    (∀ a v p, writePlace a = some p → IsFrames 1 ((wrregProg a v).trace s) ∧ IsFrames 3 ((wrprotProg a v).trace s)) ∧
    (∀ f, IsFrames 1 ((getProg f).trace s)) ∧
    (∀ f v, IsFrames 3 ((setProg f v).trace s)) ∧
    IsFrames 4 (startProg.trace s) ∧ IsFrames 4 (stopProg.trace s) ∧
    IsFrames 7 (getdtProg.trace s) ∧
    (∀ y mo d w h mi sec, IsFrames 21 ((setdtProg y mo d w h mi sec).trace s)) ∧
    (∀ p y mo d w h mi sec, p.hasAtomicDT = true → IsFrames 29 ((setdtAProg p y mo d w h mi sec).trace s)) ∧
    (∀ p, p.hasAtomicDT = true →
      ∃ n, 14 ≤ n ∧ n ≤ 7 * (p.atomicRetryMax + 2) ∧ IsFrames n ((getdtAProg p).trace s)) ∧
    (∀ slot, IsFrames 1 ((getramProg slot).trace s)) ∧
    (∀ slot v, IsFrames 3 ((setramProg slot v).trace s)) ∧
    (∀ n, (d2bProg n).trace s = []) ∧ (∀ b, (b2dProg b).trace s = [])

/-! ### Register access -/

/-- RDREG: one read frame; the raw byte in `RES[0]`, no flag, no register changed but by the TICK steps before the frame,
whatever the write-protect latch; an unmapped odd address answers a draw, any value, log entry 7 (41_register_access.md
R131, 47_device_target.md R220, R224). -/
def Obligations.ReadRegister : Prop :=
  ∀ a s, AtRest s → bitOf a 0 = true →
    (rdregProg a).trace s = readEvents a ∧ encode (.rdreg a) = .host (word1 0x10#8 (byteField a)) ∧
    exec (.rdreg a) s = .next (respond (valueResult (zext16 (memRead a s).1)) (memRead a s).2) ∧
    (∀ p, Answers s → readPlace a = some p → (memRead a s).1 = placeRead (frameTicks s).regs p) ∧
    (Answers s → readPlace a = none → (memRead a s).1 = Config.anyByte s.draws) ∧
    (memRead a s).2.regs = (frameTicks s).regs ∧ AtRest (memRead a s).2 ∧ SameEnvironment s (memRead a s).2

/-- WRREG taken alone, which ends with the empty response by the model's choice (log entry 9): one write frame. The byte
is stored at the place addressed if that is WP or the latch is clear, and nothing at all changes if not
(41_register_access.md R132, 47_device_target.md R221). -/
def Obligations.WriteRegister : Prop :=
  ∀ a v p s, AtRest s → RamSound s → writePlace a = some p →
    (wrregProg a v).trace s = writeEvents a v ∧ encode (.wrreg a v) = .host (word2 0x11#8 (byteField a) (byteField v)) ∧
    (Instr.wrreg a v).isInternal = true ∧
    ∃ t, exec (.wrreg a v) s = .next t ∧ t = respond noResult (memWrite a v p s) ∧ AtRest t ∧ SameEnvironment s t ∧
      (Listens s → p = .reg .wp ∨ locked s.regs = false →
        ∀ q, placeRead t.regs q = if q = p then v else placeRead (frameTicks s).regs q) ∧
      (p ≠ .reg .wp → locked s.regs = true → t.regs = (frameTicks s).regs)

/-- WRPROT: three frames; afterwards the device is locked whatever the latch was, the addressed register holds the value
and no other place changed; the WP register itself ends as 0x80; an unmapped even address is refused by the model, the
operation as a whole being log entry 15 (41_register_access.md R133). RAM slots and CTL need no proviso about TICK. -/
def Obligations.WriteProtected : Prop :=
  (∀ a v p s, AtRest s → RamSound s → writePlace a = some p →
    (wrprotProg a v).trace s = protectedEvents a v ∧
    encode (.wrprot a v) = .host (word2 0x12#8 (byteField a) (byteField v)) ∧
    ∃ t, exec (.wrprot a v) s = .next t ∧ t = respond noResult (memWriteProtected a v p s) ∧ AtRest t ∧
      SameEnvironment s t ∧ (Listens s → t.regs.wp = 0x80#8) ∧
      (Listens s → quiet 3 s = true → (p ≠ .reg .wp → placeRead t.regs p = v) ∧ SamePlacesBut p s t) ∧
      (Listens s → t.regs.ctl = if p = .reg .ctl then v else s.regs.ctl) ∧
      (Listens s → ∀ n, Memory.read t.regs.ram n = if p = .ram n then v else Memory.read s.regs.ram n)) ∧
  (∀ a v s, AtRest s → Listens s → bitOf a 0 = false → writePlace a = none →
    exec (.wrprot a v) s = .refused .unmappedWrite)

/-- A read after a protected write returns the byte written: the latest accepted write (20_memory.md R72 (c)); the WP
register itself ends as 0x80 (41_register_access.md R133 (a)). TICK steps before the write do not matter; after it and
before the read there are none. -/
def Obligations.ReadAfterWrite : Prop :=
  ∀ a v p s, Ready s → RamSound s → quietFrom 2 2 s = true → writePlace a = some p →
    ∃ t u, exec (.wrprot a v) s = .next t ∧ exec (.rdreg (a ||| 1#8)) t = .next u ∧
      u.res = oneResult (zext16 (if p = .reg .wp then 0x80#8 else v)) ∧ u.status = 0#16

/-! ### The BCD codec -/

/-- D2B: the untruncated formula in `RES[0]`, no flag, no line event, nothing else changed; for `n <= 99` the result is a
valid BCD byte with the tens digit in the high nibble; a word with a non-zero `a0[15:8]` is illegal (42_bcd_codec.md
R141). -/
def Obligations.DecimalToBcd : Prop :=
  (∀ (n : Byte) s, ∃ r : Half, r.toNat = n.toNat / 10 * 16 + n.toNat % 10 ∧
    exec (.d2b n) s = .next { s with res := oneResult r, status := 0#16 }) ∧
  (∀ n, n ≤ 99 → decimalToBcd n / 16 = n / 10 ∧ decimalToBcd n % 16 = n % 10 ∧
    bcdValid (BitVec.ofNat 8 (decimalToBcd n)) = true) ∧
  (∀ n, encode (.d2b n) = .host (word1 0x20#8 (byteField n)) ∧ (∀ s, (d2bProg n).trace s = [])) ∧
  (∀ b w, opcodeOf w = 0x20#8 → upperByteZero w 0 = false → hostDecode b w = .error .mustBeZero)

/-- B2D: the formula in `RES[0]` for every byte, valid BCD or not, at most 165; no flag, no line event, nothing else
changed; injective on valid BCD, not on all bytes; a word with a non-zero `a0[15:8]` is illegal (42_bcd_codec.md R142). -/
def Obligations.BcdToDecimal : Prop :=
  (∀ (b : Byte) s, ∃ r : Half, r.toNat = b.toNat / 16 * 10 + b.toNat % 16 ∧ r.toNat ≤ 165 ∧
    exec (.b2d b) s = .next { s with res := oneResult r, status := 0#16 }) ∧
  (∀ b, encode (.b2d b) = .host (word1 0x21#8 (byteField b)) ∧ (∀ s, (b2dProg b).trace s = [])) ∧
  (∀ b w, opcodeOf w = 0x21#8 → upperByteZero w 0 = false → hostDecode b w = .error .mustBeZero) ∧
  (bcdToDecimal 0x0A = bcdToDecimal 0x10 ∧ ∀ b c : Byte, bcdValid b = true → bcdValid c = true →
    bcdToDecimal b.toNat = bcdToDecimal c.toNat → b = c)

/-- The round trip of the codec, both ways (42_bcd_codec.md R143), and the nibble law for every modulus of the hardware
(R144). -/
def Obligations.BcdLaws : Prop :=
  (∀ n, n ≤ 99 → bcdToDecimal (decimalToBcd n) = n) ∧
  (∀ b : Byte, bcdValid b = true → decimalToBcd (bcdToDecimal b.toNat) = b.toNat) ∧
  (∀ n, bcdValid (BitVec.ofNat 8 (decimalToBcd (n % 100))) = true) ∧
  (∀ n f, bcdValid (BitVec.ofNat 8 (decimalToBcd (n % fieldMod f))) = true)

/-- No rule truncates a value: the data byte of a set, the value of a get and the RAM addresses are the exact results of
their formulas, and the bounds of every intermediate (42_bcd_codec.md R146). -/
def Obligations.WidthsFit : Prop :=
  (∀ f (v : Half), (fieldByte f v).toNat = decimalToBcd (v.toNat % fieldMod f)) ∧
  (∀ f (b : Byte), (fieldValue f b).toNat = fieldPost f (bcdToDecimal b.toNat)) ∧
  (∀ slot : Half, (ramReadAddr slot).toNat = 0xC0 + slot.toNat % 31 * 2 + 1 ∧ (ramReadAddr slot).toNat ≤ 0xFD) ∧
  (∀ f (v : Half), v.toNat % fieldMod f ≤ 99) ∧
  (∀ b : Byte, bcdToDecimal b.toNat ≤ 165 ∧ bcdToDecimal b.toNat % 60 ≤ 59 ∧ bcdToDecimal b.toNat + 2000 ≤ 2165) ∧
  (∀ n : Byte, decimalToBcd n.toNat ≤ 0x195)

/-! ### Calendar fields -/

/-- GET.f for all seven fields: one read frame; `RES[0]` holds the formula's value with the post-step, the other slots 0;
`DERR[0]` is 1 exactly when a nibble is above 9 or the decoded value above `MAX[f]`, and no other flag is set; the device
is unchanged but by the TICK steps before the frame (43_calendar_fields.md R150 to R157, 60_exceptions.md R251). -/
def Obligations.GetField : Prop :=
  ∀ f s, AtRest s →
    (getProg f).trace s = readEvents (regReadAddr (fieldReg f)) ∧
    ∃ t, exec (getInstr f) s = .next t ∧
      t = { (memRead (regReadAddr (fieldReg f)) s).2 with res := t.res, status := t.status } ∧
      (Answers s → let b := regRead (frameTicks s).regs (fieldReg f)
       t.res = oneResult (BitVec.ofNat 16 (fieldPost f (b.toNat / 16 * 10 + b.toNat % 16))) ∧
       t.status =
        if 9 < b.toNat / 16 ∨ 9 < b.toNat % 16 ∨ fieldMax f < b.toNat / 16 * 10 + b.toNat % 16 then 1#16 else 0#16) ∧
      t.regs = (frameTicks s).regs ∧ AtRest t ∧ SameEnvironment s t ∧
      encode (getInstr f) = .host (word0 (0x30#8 + (regWriteAddr (fieldReg f) - 0x80#8) / 2#8))

/-- SET.f for all seven fields: a protected write of `decimalToBcd(v % MOD[f])`; no result, no flag; afterwards the
field's register holds that byte, the device is locked and nothing else changed (43_calendar_fields.md R158 to R164). -/
def Obligations.SetField : Prop :=
  ∀ f v s, AtRest s → RamSound s →
    (setProg f v).trace s =
      protectedEvents (regWriteAddr (fieldReg f)) (BitVec.ofNat 8 (decimalToBcd (v.toNat % fieldMod f))) ∧
    ∃ t, exec (setInstr f v) s = .next t ∧
      t = respond noResult (memWriteProtected (regWriteAddr (fieldReg f))
        (BitVec.ofNat 8 (decimalToBcd (v.toNat % fieldMod f))) (.reg (fieldReg f)) s) ∧
      (Listens s → t.regs.wp = 0x80#8) ∧ t.regs.ctl = s.regs.ctl ∧ t.regs.ram = s.regs.ram ∧ AtRest t ∧
      SameEnvironment s t ∧
      (Listens s → quiet 3 s = true →
        regRead t.regs (fieldReg f) = BitVec.ofNat 8 (decimalToBcd (v.toNat % fieldMod f)) ∧
        SamePlacesBut (.reg (fieldReg f)) s t) ∧
      encode (setInstr f v) = .host (word1 (0x40#8 + (regWriteAddr (fieldReg f) - 0x80#8) / 2#8) v)

/-- Wraparound and round trip: SET.f v then GET.f returns `v % MOD[f]`, for the year `2000 + v % 100`, without a decode
error, for every 16-bit `v`; within the documented range it returns `v` itself, for the year with `v` in 2000 to 2099
(43_calendar_fields.md R165, R167). No TICK falls after the write and before the read. -/
def Obligations.SetThenGet : Prop :=
  ∀ f v s, Ready s → quietFrom 2 2 s = true →
    ∃ t u, exec (setInstr f v) s = .next t ∧ exec (getInstr f) t = .next u ∧ u.status = 0#16 ∧
      (u.res.r0.toNat = if f = .year then 2000 + v.toNat % 100 else v.toNat % fieldMod f) ∧
      (f ≠ .year → v.toNat ≤ fieldMax f → u.res.r0 = v) ∧
      (f = .year → 2000 ≤ v.toNat → v.toNat ≤ 2099 → u.res.r0 = v)

/-- Out-of-range input to a set is not an error: it is wrapped by the modulus and no flag is set (60_exceptions.md
R254). -/
def Obligations.SetWrapsSilently : Prop :=
  (∀ f v w s, v.toNat % fieldMod f = w.toNat % fieldMod f → exec (setInstr f v) s = exec (setInstr f w) s) ∧
  (∀ f v s, AtRest s → ∃ t, exec (setInstr f v) s = .next t ∧ t.status = 0#16)

/-- Writing the seconds releases the oscillator: after SET.SEC, and after SETDT, the clock runs, whatever it did before
and however the TICK steps fall; WRPROT 0x80 with bit 7 set changes the seconds and stays halted
(70_reset_and_hazards.md R295). -/
def Obligations.SecondsReleaseClock : Prop :=
  (∀ v s, AtRest s → Listens s → ∃ t, exec (.setSec v) s = .next t ∧ halted t.regs = false) ∧
  (∀ y mo d w h mi sec s, AtRest s → Listens s →
    ∃ t, exec (.setdt y mo d w h mi sec) s = .next t ∧ halted t.regs = false) ∧
  (∀ v s, AtRest s → Listens s →
    ∃ t, exec (.wrprot 0x80#8 (0x80#8 ||| fieldByte .second v)) s = .next t ∧ halted t.regs = true ∧
      t.regs.cal.sec = 0x80#8 ||| fieldByte .second v)

/-- Reading a halted clock: with CH = 1 and true seconds `n`, GET.SEC returns `(n + 20) % 60` with `DERR[0] = 1`, GETDT
likewise in `RES[6]` with `DERR[6] = 1`, and RDREG 0x81 has the true seconds in bits 6:0 (70_reset_and_hazards.md R296).
A halted clock does not tick, so no proviso is needed. -/
def Obligations.HaltedReadback : Prop :=
  ∀ s n, Ready s → n < 60 → s.regs.cal.sec = BitVec.ofNat 8 (0x80 + decimalToBcd n) →
    ∃ t u r, exec .getSec s = .next t ∧ t.res.r0.toNat = (n + 20) % 60 ∧ statusDerr t.status 0 = true ∧
      exec .getdt s = .next u ∧ u.res.r6.toNat = (n + 20) % 60 ∧ statusDerr u.status 6 = true ∧
      exec (.rdreg 0x81#8) s = .next r ∧ bcdToDecimal ((r.res.r0 &&& 0x7F#16).toNat) = n

/-! ### Oscillator control and timekeeping -/

/-- START and STOP: a read of the seconds register and a protected write of the byte with bit 7 cleared or set; no result,
no flag; afterwards the clock runs or is halted, however the TICK steps fall, and the device is locked; with no TICK in
between bits 6:0 are unchanged and nothing else changed (44_oscillator_control.md R181, R182). -/
def Obligations.StartStop : Prop :=
  ∀ s, AtRest s → RamSound s →
    exec .start s = .next (respond noResult (memStart s)) ∧
    exec .stop s = .next (respond noResult (memStop s)) ∧
    (Listens s → (memStart s).regs.wp = 0x80#8 ∧ (memStop s).regs.wp = 0x80#8 ∧
      halted (memStart s).regs = false ∧ halted (memStop s).regs = true) ∧
    startProg.trace s = readEvents 0x81#8 ++ protectedEvents 0x80#8 ((memRead 0x81#8 s).1 &&& 0x7F#8) ∧
    stopProg.trace s = readEvents 0x81#8 ++ protectedEvents 0x80#8 ((memRead 0x81#8 s).1 ||| 0x80#8) ∧
    encode .start = .host (word0 0x50#8) ∧ encode .stop = .host (word0 0x51#8) ∧
    AtRest (memStart s) ∧ AtRest (memStop s) ∧ SameEnvironment s (memStart s) ∧ SameEnvironment s (memStop s) ∧
    (Answers s → quiet 4 s = true →
      (memStart s).regs.cal.sec = s.regs.cal.sec &&& 0x7F#8 ∧ (memStop s).regs.cal.sec = s.regs.cal.sec ||| 0x80#8 ∧
      SamePlacesBut (.reg .sec) s (memStart s) ∧ SamePlacesBut (.reg .sec) s (memStop s))

/-- The law of the pair: STOP sets bit 7 of the raw seconds register and a following START clears it, the other bits
unchanged, as RDREG 0x81 shows, whatever the latch was. No TICK falls before STOP's write or after START's; while the
clock is halted none can (44_oscillator_control.md R183). -/
def Obligations.StopStartLaw : Prop :=
  ∀ s, Ready s → quietFrom 0 3 s = true → quietFrom 8 2 s = true →
    ∃ t u v w, exec .stop s = .next t ∧ exec (.rdreg 0x81#8) t = .next u ∧ u.res.r0 = zext16 (s.regs.cal.sec ||| 0x80#8) ∧
      exec .start u = .next v ∧ exec (.rdreg 0x81#8) v = .next w ∧ w.res.r0 = zext16 (s.regs.cal.sec &&& 0x7F#8)

/-- The race of STOP and START: TICK steps after the read frame and before the write frame advance the other six
registers, and the old seconds are written back with bit 7 changed (70_reset_and_hazards.md R297). For START none falls
after the write. -/
def Obligations.StopStartRace : Prop :=
  (∀ s i j rest, Ready s → s.ticks = 0 :: i :: j :: rest →
    ∃ t, exec .stop s = .next t ∧
      t.regs.cal = { (tickTimes (i + j) s).regs.cal with sec := s.regs.cal.sec ||| 0x80#8 }) ∧
  (∀ s i j rest, Ready s → s.ticks = 0 :: i :: j :: 0 :: rest →
    ∃ t, exec .start s = .next t ∧
      t.regs.cal = { (tickTimes (i + j) s).regs.cal with sec := s.regs.cal.sec &&& 0x7F#8 })

/-- TICK: no effect while the clock-halt bit is set; else the seven calendar registers become `tick_next` of themselves
and nothing else changes; the result never has the clock-halt bit; a TICK input is taken between commands and between
two line events of a command alike (47_device_target.md R245, R246). -/
def Obligations.TickEffect : Prop :=
  (∀ s, halted s.regs = true → tick s = s) ∧
  (∀ s, halted s.regs = false →
    tick s = { s with regs := { s.regs with cal := tickCalendar s.par.tickNext s.regs.cal } }) ∧
  (∀ k c, bitOf (tickCalendar k c).sec 7 = false) ∧
  (∀ s rest, s.inbox = .tick :: rest → step s = .next (tick { s with inbox := rest }))

/-- The reference instance of `tick_next`: on valid registers the second of the day advances by one modulo 86400, the time
registers stay valid, and the date advances at midnight only, by `next_date` (47_device_target.md R247). `next_date` is a
free function: the statement holds whatever it is. That registers with day 0 or month 0 are among the valid ones is the
model's choice, log entry 22. -/
def Obligations.ReferenceTick : Prop :=
  ∀ c, calendarValid c = true →
    timeOfDay (refTick c) = (timeOfDay c + 1) % 86400 ∧
    decodeErr .second (refTick c).sec = false ∧ decodeErr .minute (refTick c).min = false ∧
    decodeErr .hour (refTick c).hr = false ∧
    dateOf (refTick c) = if timeOfDay c + 1 = 86400 then Config.nextDate (dateOf c) else dateOf c

/-! ### Snapshots -/

/-- GETDT: the seven gets in the fixed order year, month, day, weekday, hour, minute, second, each with the TICK steps
before its frame; seven values, seven decode-error bits, no other flag; the device unchanged but by those steps. With no
TICK between, or the clock halted, the snapshot is what the registers decode to (45_snapshot.md R190). -/
def Obligations.GetDateTime : Prop :=
  ∀ s, AtRest s →
    getdtProg.trace s = snapshotReadEvents ∧ encode .getdt = .host (word0 0x60#8) ∧
    ∃ t, exec .getdt s = .next t ∧
      t = respond (snapshotResult (memGetDateTime s).1 false) (memGetDateTime s).2 ∧
      AtRest t ∧ SameEnvironment s t ∧ SameBesidesCalendar s t ∧
      (∀ i, i < 7 → statusDerr t.status i = (memGetDateTime s).1.derr.getLsbD i) ∧
      statusTorn t.status = false ∧ statusIll t.status = false ∧
      (Answers s → quiet 7 s = true ∨ halted s.regs = true →
        (memGetDateTime s).1 = snapshotOf s.regs.cal ∧ t.regs.cal = s.regs.cal)

/-- SETDT: the seven sets in the same order, 21 frames; no result, no flag; afterwards the device is locked, and with no
TICK between the calendar registers hold the seven encoded values (45_snapshot.md R191). -/
def Obligations.SetDateTime : Prop :=
  ∀ y mo d w h mi sec s, AtRest s →
    (setdtProg y mo d w h mi sec).trace s = snapshotWriteEvents y mo d w h mi sec ∧
    encode (.setdt y mo d w h mi sec) = .host (hostWord 0x61#8 y mo d w h mi sec) ∧
    ∃ t, exec (.setdt y mo d w h mi sec) s = .next t ∧
      t = respond noResult (memSetDateTime y mo d w h mi sec s) ∧
      AtRest t ∧ SameEnvironment s t ∧ (Listens s → t.regs.wp = 0x80#8) ∧ t.regs.ctl = s.regs.ctl ∧ t.regs.ram = s.regs.ram ∧
      (Listens s → quiet 21 s = true → t.regs.cal = calendarOf y mo d w h mi sec)

/-- The snapshot law: SETDT a0..a6 then GETDT returns `[2000 + a0 % 100, a1 % 13, a2 % 32, a3 % 8, a4 % 24, a5 % 60,
a6 % 60]` with STATUS = 0, with no TICK between the first frame of SETDT and the last of GETDT (45_snapshot.md R194). -/
def Obligations.SnapshotLaw : Prop :=
  ∀ y mo d w h mi sec s, Ready s → quietFrom 1 27 s = true →
    ∃ t u, exec (.setdt y mo d w h mi sec) s = .next t ∧ exec .getdt t = .next u ∧ u.status = 0#16 ∧
      u.res.r0.toNat = 2000 + y.toNat % 100 ∧ u.res.r1.toNat = mo.toNat % 13 ∧ u.res.r2.toNat = d.toNat % 32 ∧
      u.res.r3.toNat = w.toNat % 8 ∧ u.res.r4.toNat = h.toNat % 24 ∧ u.res.r5.toNat = mi.toNat % 60 ∧
      u.res.r6.toNat = sec.toNat % 60

/-- SETDT.A writes a consistent calendar: STOP, SETDT, START; however TICK steps fall before its 24 first frames (the 24th
writes the seconds and starts the clock), the seven registers hold the seven encoded values when the operation ends, if
none falls later; while the option is absent its word is illegal, and taken alone it is refused by the model's choice, log
entry 14 (45_snapshot.md R192). -/
def Obligations.AtomicSetConsistent : Prop :=
  (∀ y mo d w h mi sec s, s.par.hasAtomicDT = false →
    exec (.setdtA y mo d w h mi sec) s = .next (refuseCommand s) ∧
    hostDecode false (hostWord 0x63#8 y mo d w h mi sec) = .error .absentOption) ∧
  (∀ y mo d w h mi sec s, AtRest s → s.par.hasAtomicDT = true →
    encode (.setdtA y mo d w h mi sec) = .host (hostWord 0x63#8 y mo d w h mi sec) ∧
    ∃ t, exec (.setdtA y mo d w h mi sec) s = .next t ∧
      t = respond noResult (memStart (memSetDateTime y mo d w h mi sec (memStop s))) ∧
      AtRest t ∧ SameEnvironment s t ∧ (Listens s → t.regs.wp = 0x80#8) ∧ t.regs.ctl = s.regs.ctl ∧ t.regs.ram = s.regs.ram ∧
      (Answers s → quietFrom 24 5 s = true → t.regs.cal = calendarOf y mo d w h mi sec))

/-- GETDT.A: snapshots until two consecutive ones agree or the retries run out. Snapshot `k` of this run is `snapshotAt
k s`, read after `k` others from `s`. TORN is set exactly when no two consecutive ones of the first `ATOMIC_RETRY_MAX +
2` agree, and then the last is returned; else the first two that agree end the operation and what they show is returned,
read twice in a row in this run. 14 to `7 * (ATOMIC_RETRY_MAX + 2)` read frames; with no TICK between, or the clock
halted, the result is what the registers decode to, without TORN; the device unchanged but by the TICK steps; illegal
while the option is absent (45_snapshot.md R193). -/
def Obligations.AtomicGet : Prop :=
  (∀ s rest, s.seq = .idle → s.inbox = .host (word0 0x62#8) :: rest → s.par.hasAtomicDT = false →
    step s = .next (refuseCommand { s with inbox := rest }) ∧ hostDecode false (word0 0x62#8) = .error .absentOption) ∧
  (∀ s, AtRest s → s.par.hasAtomicDT = true →
    encode .getdtA = .host (word0 0x62#8) ∧
    ∃ t, exec .getdtA s = .next t ∧
      (let x := memGetDateTime s
       let y := memReread s.par.atomicRetryMax x.1 x.2
       t = respond y.1 y.2) ∧
      AtRest t ∧ SameEnvironment s t ∧ SameBesidesCalendar s t ∧ statusIll t.status = false ∧
      (statusTorn t.status = true ↔ ∀ k, k ≤ s.par.atomicRetryMax → snapshotAt (k + 1) s ≠ snapshotAt k s) ∧
      (∀ k, k ≤ s.par.atomicRetryMax → (∀ j, j < k → snapshotAt (j + 1) s ≠ snapshotAt j s) →
        snapshotAt (k + 1) s = snapshotAt k s →
        t = respond (snapshotResult (snapshotAt k s) false) (memGetDateTimes (k + 2) s) ∧
        (getdtAProg s.par).trace s = (List.replicate (k + 2) snapshotReadEvents).flatten) ∧
      (statusTorn t.status = true →
        t = respond (snapshotResult (snapshotAt (s.par.atomicRetryMax + 1) s) true)
          (memGetDateTimes (s.par.atomicRetryMax + 2) s) ∧
        (getdtAProg s.par).trace s = (List.replicate (s.par.atomicRetryMax + 2) snapshotReadEvents).flatten) ∧
      (Answers s → quiet 14 s = true ∨ halted s.regs = true →
        t.res = (snapshotOf s.regs.cal).res ∧ t.status = packStatus (snapshotOf s.regs.cal).derr false false ∧
        t.regs.cal = s.regs.cal))

/-- GETDT.A and SETDT.A taken alone while `HAS_ATOMIC_DT` is false are refused as the command port refuses their words
(30_encoding.md R99, R102): the model's choice, log entry 14. -/
def Obligations.AbsentOptionRefused : Prop :=
  ∀ s, s.par.hasAtomicDT = false →
    exec .getdtA s = .next (refuseCommand s) ∧
    ∀ y mo d w h mi sec, exec (.setdtA y mo d w h mi sec) s = .next (refuseCommand s)

/-! ### RAM -/

/-- GETRAM: the raw byte of cell `slot % 31` in `RES[0]`, no flag, the device unchanged but by the TICK steps before the
frame, which never touch the RAM (46_ram.md R201). -/
def Obligations.GetRam : Prop :=
  ∀ slot s, AtRest s →
    (getramProg slot).trace s = readEvents (ramReadAddr slot) ∧ encode (.getram slot) = .host (word1 0x70#8 slot) ∧
    ∃ t, exec (.getram slot) s = .next t ∧
      t = respond (valueResult (zext16 (memRead (ramReadAddr slot) s).1)) (memRead (ramReadAddr slot) s).2 ∧
      (Answers s → t.res.r0 = zext16 (Memory.read s.regs.ram (slot.toNat % 31))) ∧
      t.regs = (frameTicks s).regs ∧ AtRest t ∧ SameEnvironment s t

/-- SETRAM: cell `slot % 31` holds the value as given, the device is locked, no other slot and no calendar register
changes; no result, no flag (46_ram.md R202). -/
def Obligations.SetRam : Prop :=
  ∀ slot v s, AtRest s → RamSound s →
    (setramProg slot v).trace s = protectedEvents (ramWriteAddr slot) v ∧
    encode (.setram slot v) = .host (word2 0x71#8 slot (byteField v)) ∧
    ∃ t, exec (.setram slot v) s = .next t ∧
      t = respond noResult (memWriteProtected (ramWriteAddr slot) v (.ram (slot.toNat % 31)) s) ∧
      (Listens s → t.regs.wp = 0x80#8) ∧ t.regs.ctl = s.regs.ctl ∧ AtRest t ∧ SameEnvironment s t ∧
      (Listens s → ∀ n, Memory.read t.regs.ram n = if n = slot.toNat % 31 then v else Memory.read s.regs.ram n) ∧
      (quiet 3 s = true ∨ halted s.regs = true → t.regs.cal = s.regs.cal)

/-- The RAM laws: after SETRAM s v, GETRAM t returns v if `t % 31 = s % 31`, and otherwise what it returned before; no
proviso about the oscillator (46_ram.md R203). -/
def Obligations.RamLaws : Prop :=
  ∀ a b v s, Ready s → RamSound s →
    ∃ t u x, exec (.setram a v) s = .next t ∧ exec (.getram b) t = .next u ∧ exec (.getram b) s = .next x ∧
      u.res.r0 = if b.toNat % 31 = a.toNat % 31 then zext16 v else x.res.r0

/-! ### Bus commands -/

/-- The read commands of the device: the frame's data byte is the byte of the register or slot, whole, whatever the
latch; no register, slot or controller state changes (47_device_target.md R226 to R244, the even-numbered ones). That a
bus command is an instruction of its own whose answer is `bus.rlat` and which leaves the controller as it is is the
model's choice, log entry 10. -/
def Obligations.BusReadCommands : Prop :=
  (∀ r s, ∃ t, exec (readInstr r) s = .next t ∧ t.bus.rlat = regRead s.regs r ∧ t.regs = s.regs ∧ SameController s t ∧
    encode (readInstr r) = .bus (frameOf (regReadAddr r) 0#8)) ∧
  (∀ n s, slotEncodable n = true →
    ∃ t, exec (.rdRam n) s = .next t ∧ t.bus.rlat = Memory.read s.regs.ram n.toNat ∧ t.regs = s.regs ∧
      SameController s t ∧ encode (.rdRam n) = .bus (frameOf (BitVec.ofNat 8 (0xC1 + 2 * n.toNat)) 0#8))

/-- The write commands of the device: the whole byte is stored if the latch is clear or the register is WP, and nothing
changes if not; no other register or slot and no controller state changes (47_device_target.md R225 to R243, the
odd-numbered ones). That a bus command is an instruction of its own which leaves the controller as it is is the model's
choice, log entry 10. -/
def Obligations.BusWriteCommands : Prop :=
  (∀ r d s, ∃ t, exec (writeInstr r d) s = .next t ∧ SameController s t ∧ t.regs.ram = s.regs.ram ∧
    (∀ q, regRead t.regs q = if q = r ∧ (r = .wp ∨ locked s.regs = false) then d else regRead s.regs q) ∧
    encode (writeInstr r d) = .bus (frameOf (regWriteAddr r) d)) ∧
  (∀ n d s, slotEncodable n = true → RamSound s →
    ∃ t, exec (.wrRam n d) s = .next t ∧ SameController s t ∧ (∀ q, regRead t.regs q = regRead s.regs q) ∧
      (∀ k, Memory.read t.regs.ram k = if k = n.toNat ∧ locked s.regs = false then d else Memory.read s.regs.ram k) ∧
      encode (.wrRam n d) = .bus (frameOf (BitVec.ofNat 8 (0xC0 + 2 * n.toNat)) d))

/-- A frame with an unmapped command byte: a read is answered by a draw, any value, and changes no register, slot or
controller state; a write is refused by the model (47_device_target.md R224, 30_encoding.md R93). The frame taken alone,
with its answer in `bus.rlat` and the controller left as it is, is the model's choice, log entry 10; the draw is log
entry 7. -/
def Obligations.UnmappedFrames : Prop :=
  ∀ s f rest, s.seq = .idle → s.inbox = .frame f :: rest → decodeFrame f = .error .unmappedCommand →
    (bitOf (commandByteOf f) 0 = true →
      ∃ t, step s = .next t ∧ t.bus.rlat = Config.anyByte s.draws ∧ t.draws = s.draws + 1 ∧ t.regs = s.regs ∧
        SameController { s with inbox := rest } t) ∧
    (bitOf (commandByteOf f) 0 = false → step s = .refused .unmappedWrite)

/-! ### Whole-machine rules -/

/-- Flags come from the gets and the snapshots alone: every other legal command leaves STATUS = 0 (10_state.md R29,
60_exceptions.md R251). -/
def Obligations.FlagsFromGetsOnly : Prop :=
  ∀ s t w i, hostDecode s.par.hasAtomicDT w = .ok i → raisesFlags i = false → exec i s = .next t → t.status = 0#16

/-- After a legal host command the device is locked, or nothing but the calendar may have changed (by TICK): a host cannot
emit a bare write frame (60_exceptions.md R260, 70_reset_and_hazards.md R298). -/
def Obligations.HostWritesLeaveLocked : Prop :=
  ∀ s t w i, AtRest s → hostDecode s.par.hasAtomicDT w = .ok i → exec i s = .next t →
    t.regs.wp = 0x80#8 ∨ (SameBesidesCalendar s t ∧ ∃ n k, t.regs.cal = (tickTimes n s).regs.cal ∧ t.ticks = s.ticks.drop k)

/-- The Control register is changed only by an access that addresses it: WRPROT 0x90, the internal WRREG 0x90 and the bus
command WR.CTL (10_state.md R49). -/
def Obligations.ControlOnlyByAddress : Prop :=
  ∀ i s t, AtRest s → exec i s = .next t → (∀ v, i ≠ .wrprot 0x90#8 v) → (∀ v, i ≠ .wrreg 0x90#8 v) →
    (∀ d, i ≠ .wrCtl d) → t.regs.ctl = s.regs.ctl

/-- The parameters of the model are changed by no step. R53 of 10_state.md says so of the parameters of 00_scope.md R7, which
the model keeps in State (`par.hasAtomicDT` and `par.atomicRetryMax`, log entry 4; `par.tickNext`, log entry 5). That no
step changes `par.link`, what the lines lead to, is no rule of the spec but the model's choice, log entry 20. -/
def Obligations.ParametersFixed : Prop :=
  ∀ s t, step s = .next t → t.par = s.par

/-- The state after reset meets the invariant. -/
def Obligations.SoundAtReset : Prop := Sound State.reset

/-- Every step keeps the invariant: the RAM cells canonical, STATUS bits 15:9 zero (10_state.md R29), the bus slave idle
whenever CS = 0 or no device is attached (R51) with at most 16 edges counted, CS and CLK low between commands and
brought low by what is left of a running command (R21, R22, R30). -/
def Obligations.SoundKept : Prop :=
  ∀ s t, Sound s → step s = .next t → Sound t

/-! ### Reset -/

/-- The controller's values after reset (10_state.md R54). -/
def Obligations.ResetValues : Prop :=
  State.reset.cs = false ∧ State.reset.clk = false ∧ State.reset.dir = .input ∧ State.reset.dout = false ∧
  State.reset.res = Results.zero ∧ State.reset.status = 0#16 ∧ State.reset.seq = .idle ∧
  State.reset.bus.cnt = 0 ∧ State.reset.bus.drv = false

/-- Controller reset between commands: the controller takes its reset values and the device, its bus slave included, does
not see it (70_reset_and_hazards.md R280, R282). -/
def Obligations.ResetBetweenCommands : Prop :=
  ∀ s rest, AtRest s → s.seq = .idle → s.inbox = .reset :: rest →
    step s = .next { s with
      cs := false, clk := false, dir := .input, dout := false, res := Results.zero, status := 0#16, seq := .idle
      inbox := rest }

/-- Reset during a command: the command is abandoned, the controller takes its reset values, CS falls. If a write frame
to a device was cut after its command byte the addressed place holds any value (a draw) and no other place changes;
otherwise no register changes (70_reset_and_hazards.md R281, 47_device_target.md R219). A cut write frame to an unmapped
address is refused by the model, as a whole one is (R224), which is the model's choice, log entry 13; that RES and
STATUS take their reset values in mid-command is log entry 12, and the draw log entry 7. That a reset ends so an operation
outside the contract too, whose offending frame R64 gives no meaning, is the model's choice, log entry 23. -/
def Obligations.ResetDuringCommand : Prop :=
  ∀ s i done rest, s.seq = .running i done → s.inbox = .reset :: rest →
    (s.cs = false ∨ writeOpen s.bus = false ∨ s.par.link = .absent →
      ∃ t, step s = .next t ∧ t.regs = s.regs ∧ t.cs = false ∧ t.clk = false ∧ t.dir = .input ∧ t.dout = false ∧
        t.res = Results.zero ∧ t.status = 0#16 ∧ t.seq = .idle ∧ t.inbox = rest) ∧
    (∀ p, Listens s → s.cs = true → writeOpen s.bus = true → RamSound s → writePlace s.bus.cmd = some p →
      ∃ t, step s = .next t ∧
        (∀ q, placeRead t.regs q = if q = p then Config.anyByte s.draws else placeRead s.regs q) ∧
        t.cs = false ∧ t.clk = false ∧ t.dir = .input ∧ t.dout = false ∧ t.res = Results.zero ∧ t.status = 0#16 ∧
        t.seq = .idle ∧ t.inbox = rest ∧ t.bus.cnt = 0 ∧ t.bus.drv = false) ∧
    (Listens s → s.cs = true → writeOpen s.bus = true → writePlace s.bus.cmd = none → step s = .refused .unmappedWrite)

/-! ### Without a device -/

/-- Operations end whether or not a device is attached, and on a bad bus (60_exceptions.md R252, 41_register_access.md
R134). The number of line events of an operation does not depend on the state, that of GETDT.A apart (see
`FrameCounts`). With no device every host operation whose address has the direction its frame has completes, an unmapped
write address included; the lines come to rest, and a device that is not there stores nothing, its TICK steps apart.
With no device, and on a bad bus for a mapped address, the byte of a read frame is any byte: each bit is a draw
(93_implementation_defined.md U2), and a get decodes it like any other, which is the only way a missing device shows.
Which of these a machine has, and what a bad bus is, are the model's parameter, log entry 20; the draws are free values,
log entry 7. -/
def Obligations.OperationsEndWithoutDevice : Prop :=
  (∀ q i p s t, operation q i = some p → i ≠ .getdtA → (p.trace s).length = (p.trace t).length) ∧
  (∀ i s, AtRest s → s.par.link = .absent → (operation s.par i).isSome = true →
    (∀ a, i = .rdreg a → bitOf a 0 = true) → (∀ a v, i = .wrreg a v ∨ i = .wrprot a v → bitOf a 0 = false) →
    ∃ t, exec i s = .next t ∧ AtRest t ∧ t.bus = s.bus ∧ SameBesidesCalendar s t ∧ SameEnvironment s t ∧
      ∃ n k, t.regs.cal = (tickTimes n s).regs.cal ∧ t.ticks = s.ticks.drop k) ∧
  (∀ a s, AtRest s → bitOf a 0 = true → s.par.link = .absent ∨ s.par.link = .badBus ∧ (readPlace a).isSome = true →
    ∃ r t, exec (.rdreg a) s = .next t ∧ t.res = oneResult (zext16 r) ∧ t.status = 0#16 ∧ t.draws = s.draws + 8 ∧
      ∀ n, n < 8 → bitOf r n = Config.anyLevel (s.draws + n)) ∧
  (∀ f s, AtRest s → s.par.link = .absent ∨ s.par.link = .badBus →
    ∃ r t, exec (getInstr f) s = .next t ∧ t.res = oneResult (fieldValue f r) ∧
      t.status = (if decodeErr f r then 1#16 else 0#16) ∧ t.draws = s.draws + 8 ∧
      ∀ n, n < 8 → bitOf r n = Config.anyLevel (s.draws + n))
end

