-- ==== Sys2Proof/Laws/State.lean ====
section
/-! SUPPORT. One lemma per field per update of the state: what each named update leaves in each field. -/

namespace Sys2Proof.Machine

@[simp] theorem respond_cs (r : Response) (s : State) : (respond r s).cs = s.cs := rfl
@[simp] theorem respond_clk (r : Response) (s : State) : (respond r s).clk = s.clk := rfl
@[simp] theorem respond_dir (r : Response) (s : State) : (respond r s).dir = s.dir := rfl
@[simp] theorem respond_dout (r : Response) (s : State) : (respond r s).dout = s.dout := rfl
@[simp] theorem respond_res (r : Response) (s : State) : (respond r s).res = r.res := rfl
@[simp] theorem respond_status (r : Response) (s : State) : (respond r s).status = r.status := rfl
@[simp] theorem respond_seq (r : Response) (s : State) : (respond r s).seq = s.seq := rfl
@[simp] theorem respond_regs (r : Response) (s : State) : (respond r s).regs = s.regs := rfl
@[simp] theorem respond_bus (r : Response) (s : State) : (respond r s).bus = s.bus := rfl
@[simp] theorem respond_par (r : Response) (s : State) : (respond r s).par = s.par := rfl
@[simp] theorem respond_ticks (r : Response) (s : State) : (respond r s).ticks = s.ticks := rfl
@[simp] theorem respond_draws (r : Response) (s : State) : (respond r s).draws = s.draws := rfl
@[simp] theorem respond_inbox (r : Response) (s : State) : (respond r s).inbox = s.inbox := rfl

@[simp] theorem refuseCommand_cs (s : State) : (refuseCommand s).cs = s.cs := rfl
@[simp] theorem refuseCommand_clk (s : State) : (refuseCommand s).clk = s.clk := rfl
@[simp] theorem refuseCommand_dir (s : State) : (refuseCommand s).dir = s.dir := rfl
@[simp] theorem refuseCommand_dout (s : State) : (refuseCommand s).dout = s.dout := rfl
@[simp] theorem refuseCommand_res (s : State) : (refuseCommand s).res = Results.zero := rfl
@[simp] theorem refuseCommand_status (s : State) : (refuseCommand s).status = packStatus 0#7 false true := rfl
@[simp] theorem refuseCommand_seq (s : State) : (refuseCommand s).seq = s.seq := rfl
@[simp] theorem refuseCommand_regs (s : State) : (refuseCommand s).regs = s.regs := rfl
@[simp] theorem refuseCommand_bus (s : State) : (refuseCommand s).bus = s.bus := rfl
@[simp] theorem refuseCommand_par (s : State) : (refuseCommand s).par = s.par := rfl
@[simp] theorem refuseCommand_ticks (s : State) : (refuseCommand s).ticks = s.ticks := rfl
@[simp] theorem refuseCommand_draws (s : State) : (refuseCommand s).draws = s.draws := rfl
@[simp] theorem refuseCommand_inbox (s : State) : (refuseCommand s).inbox = s.inbox := rfl

@[simp] theorem resetController_cs (s : State) : (resetController s).cs = false := rfl
@[simp] theorem resetController_clk (s : State) : (resetController s).clk = false := rfl
@[simp] theorem resetController_dir (s : State) : (resetController s).dir = .input := rfl
@[simp] theorem resetController_dout (s : State) : (resetController s).dout = false := rfl
@[simp] theorem resetController_res (s : State) : (resetController s).res = Results.zero := rfl
@[simp] theorem resetController_status (s : State) : (resetController s).status = 0#16 := rfl
@[simp] theorem resetController_seq (s : State) : (resetController s).seq = .idle := rfl
@[simp] theorem resetController_regs (s : State) : (resetController s).regs = s.regs := rfl
@[simp] theorem resetController_bus (s : State) : (resetController s).bus = s.bus := rfl
@[simp] theorem resetController_par (s : State) : (resetController s).par = s.par := rfl
@[simp] theorem resetController_ticks (s : State) : (resetController s).ticks = s.ticks := rfl
@[simp] theorem resetController_draws (s : State) : (resetController s).draws = s.draws := rfl
@[simp] theorem resetController_inbox (s : State) : (resetController s).inbox = s.inbox := rfl

@[simp] theorem tick_cs (s : State) : (tick s).cs = s.cs := rfl
@[simp] theorem tick_clk (s : State) : (tick s).clk = s.clk := rfl
@[simp] theorem tick_dir (s : State) : (tick s).dir = s.dir := rfl
@[simp] theorem tick_dout (s : State) : (tick s).dout = s.dout := rfl
@[simp] theorem tick_res (s : State) : (tick s).res = s.res := rfl
@[simp] theorem tick_status (s : State) : (tick s).status = s.status := rfl
@[simp] theorem tick_seq (s : State) : (tick s).seq = s.seq := rfl
@[simp] theorem tick_regs (s : State) : (tick s).regs = regsTick s.par.tickNext s.regs := rfl
@[simp] theorem tick_bus (s : State) : (tick s).bus = s.bus := rfl
@[simp] theorem tick_par (s : State) : (tick s).par = s.par := rfl
@[simp] theorem tick_ticks (s : State) : (tick s).ticks = s.ticks := rfl
@[simp] theorem tick_draws (s : State) : (tick s).draws = s.draws := rfl
@[simp] theorem tick_inbox (s : State) : (tick s).inbox = s.inbox := rfl

@[simp] theorem csRise_cs (s : State) : (csRise s).cs = true := rfl
@[simp] theorem csRise_clk (s : State) : (csRise s).clk = s.clk := rfl
@[simp] theorem csRise_dir (s : State) : (csRise s).dir = s.dir := rfl
@[simp] theorem csRise_dout (s : State) : (csRise s).dout = s.dout := rfl
@[simp] theorem csRise_res (s : State) : (csRise s).res = s.res := rfl
@[simp] theorem csRise_status (s : State) : (csRise s).status = s.status := rfl
@[simp] theorem csRise_seq (s : State) : (csRise s).seq = s.seq := rfl
@[simp] theorem csRise_regs (s : State) : (csRise s).regs = s.regs := rfl
@[simp] theorem csRise_bus (s : State) : (csRise s).bus = slaveIdle s := rfl
@[simp] theorem csRise_par (s : State) : (csRise s).par = s.par := rfl
@[simp] theorem csRise_ticks (s : State) : (csRise s).ticks = s.ticks := rfl
@[simp] theorem csRise_draws (s : State) : (csRise s).draws = s.draws := rfl
@[simp] theorem csRise_inbox (s : State) : (csRise s).inbox = s.inbox := rfl

@[simp] theorem endFrame_cs (s : State) : (endFrame s).cs = false := rfl
@[simp] theorem endFrame_clk (s : State) : (endFrame s).clk = s.clk := rfl
@[simp] theorem endFrame_dir (s : State) : (endFrame s).dir = s.dir := rfl
@[simp] theorem endFrame_dout (s : State) : (endFrame s).dout = s.dout := rfl
@[simp] theorem endFrame_res (s : State) : (endFrame s).res = s.res := rfl
@[simp] theorem endFrame_status (s : State) : (endFrame s).status = s.status := rfl
@[simp] theorem endFrame_seq (s : State) : (endFrame s).seq = s.seq := rfl
@[simp] theorem endFrame_regs (s : State) : (endFrame s).regs = s.regs := rfl
@[simp] theorem endFrame_bus (s : State) : (endFrame s).bus = slaveIdle s := rfl
@[simp] theorem endFrame_par (s : State) : (endFrame s).par = s.par := rfl
@[simp] theorem endFrame_ticks (s : State) : (endFrame s).ticks = s.ticks := rfl
@[simp] theorem endFrame_draws (s : State) : (endFrame s).draws = s.draws := rfl
@[simp] theorem endFrame_inbox (s : State) : (endFrame s).inbox = s.inbox := rfl

@[simp] theorem busWrite_cs (a v : Byte) (p : Place) (s : State) : (busWrite a v p s).cs = s.cs := rfl
@[simp] theorem busWrite_clk (a v : Byte) (p : Place) (s : State) : (busWrite a v p s).clk = s.clk := rfl
@[simp] theorem busWrite_dir (a v : Byte) (p : Place) (s : State) : (busWrite a v p s).dir = s.dir := rfl
@[simp] theorem busWrite_dout (a v : Byte) (p : Place) (s : State) : (busWrite a v p s).dout = s.dout := rfl
@[simp] theorem busWrite_res (a v : Byte) (p : Place) (s : State) : (busWrite a v p s).res = s.res := rfl
@[simp] theorem busWrite_status (a v : Byte) (p : Place) (s : State) : (busWrite a v p s).status = s.status := rfl
@[simp] theorem busWrite_seq (a v : Byte) (p : Place) (s : State) : (busWrite a v p s).seq = s.seq := rfl
@[simp] theorem busWrite_regs (a v : Byte) (p : Place) (s : State) : (busWrite a v p s).regs = storeAt s.regs p v := rfl
@[simp] theorem busWrite_bus (a v : Byte) (p : Place) (s : State) : (busWrite a v p s).bus = { s.bus with cmd := a, wsh := v } := rfl
@[simp] theorem busWrite_par (a v : Byte) (p : Place) (s : State) : (busWrite a v p s).par = s.par := rfl
@[simp] theorem busWrite_ticks (a v : Byte) (p : Place) (s : State) : (busWrite a v p s).ticks = s.ticks := rfl
@[simp] theorem busWrite_draws (a v : Byte) (p : Place) (s : State) : (busWrite a v p s).draws = s.draws := rfl
@[simp] theorem busWrite_inbox (a v : Byte) (p : Place) (s : State) : (busWrite a v p s).inbox = s.inbox := rfl

@[simp] theorem busRead_cs (a v : Byte) (s : State) : (busRead a v s).cs = s.cs := rfl
@[simp] theorem busRead_clk (a v : Byte) (s : State) : (busRead a v s).clk = s.clk := rfl
@[simp] theorem busRead_dir (a v : Byte) (s : State) : (busRead a v s).dir = s.dir := rfl
@[simp] theorem busRead_dout (a v : Byte) (s : State) : (busRead a v s).dout = s.dout := rfl
@[simp] theorem busRead_res (a v : Byte) (s : State) : (busRead a v s).res = s.res := rfl
@[simp] theorem busRead_status (a v : Byte) (s : State) : (busRead a v s).status = s.status := rfl
@[simp] theorem busRead_seq (a v : Byte) (s : State) : (busRead a v s).seq = s.seq := rfl
@[simp] theorem busRead_regs (a v : Byte) (s : State) : (busRead a v s).regs = s.regs := rfl
@[simp] theorem busRead_bus (a v : Byte) (s : State) : (busRead a v s).bus = { s.bus with cmd := a, rlat := v, dbit := bitOf v 7 } := rfl
@[simp] theorem busRead_par (a v : Byte) (s : State) : (busRead a v s).par = s.par := rfl
@[simp] theorem busRead_ticks (a v : Byte) (s : State) : (busRead a v s).ticks = s.ticks := rfl
@[simp] theorem busRead_draws (a v : Byte) (s : State) : (busRead a v s).draws = s.draws := rfl
@[simp] theorem busRead_inbox (a v : Byte) (s : State) : (busRead a v s).inbox = s.inbox := rfl

@[simp] theorem closeFrame_cs (d : Dir) (b : Bool) (s : State) : (closeFrame d b s).cs = s.cs := rfl
@[simp] theorem closeFrame_clk (d : Dir) (b : Bool) (s : State) : (closeFrame d b s).clk = s.clk := rfl
@[simp] theorem closeFrame_dir (d : Dir) (b : Bool) (s : State) : (closeFrame d b s).dir = d := rfl
@[simp] theorem closeFrame_dout (d : Dir) (b : Bool) (s : State) : (closeFrame d b s).dout = b := rfl
@[simp] theorem closeFrame_res (d : Dir) (b : Bool) (s : State) : (closeFrame d b s).res = s.res := rfl
@[simp] theorem closeFrame_status (d : Dir) (b : Bool) (s : State) : (closeFrame d b s).status = s.status := rfl
@[simp] theorem closeFrame_seq (d : Dir) (b : Bool) (s : State) : (closeFrame d b s).seq = s.seq := rfl
@[simp] theorem closeFrame_regs (d : Dir) (b : Bool) (s : State) : (closeFrame d b s).regs = s.regs := rfl
@[simp] theorem closeFrame_bus (d : Dir) (b : Bool) (s : State) : (closeFrame d b s).bus = slaveIdle s := rfl
@[simp] theorem closeFrame_par (d : Dir) (b : Bool) (s : State) : (closeFrame d b s).par = s.par := rfl
@[simp] theorem closeFrame_ticks (d : Dir) (b : Bool) (s : State) : (closeFrame d b s).ticks = s.ticks := rfl
@[simp] theorem closeFrame_draws (d : Dir) (b : Bool) (s : State) : (closeFrame d b s).draws = s.draws := rfl
@[simp] theorem closeFrame_inbox (d : Dir) (b : Bool) (s : State) : (closeFrame d b s).inbox = s.inbox := rfl

@[simp] theorem drawByte_cs (s : State) : (drawByte s).2.cs = s.cs := rfl
@[simp] theorem drawByte_clk (s : State) : (drawByte s).2.clk = s.clk := rfl
@[simp] theorem drawByte_dir (s : State) : (drawByte s).2.dir = s.dir := rfl
@[simp] theorem drawByte_dout (s : State) : (drawByte s).2.dout = s.dout := rfl
@[simp] theorem drawByte_res (s : State) : (drawByte s).2.res = s.res := rfl
@[simp] theorem drawByte_status (s : State) : (drawByte s).2.status = s.status := rfl
@[simp] theorem drawByte_seq (s : State) : (drawByte s).2.seq = s.seq := rfl
@[simp] theorem drawByte_regs (s : State) : (drawByte s).2.regs = s.regs := rfl
@[simp] theorem drawByte_bus (s : State) : (drawByte s).2.bus = s.bus := rfl
@[simp] theorem drawByte_par (s : State) : (drawByte s).2.par = s.par := rfl
@[simp] theorem drawByte_ticks (s : State) : (drawByte s).2.ticks = s.ticks := rfl
@[simp] theorem drawByte_draws (s : State) : (drawByte s).2.draws = s.draws + 1 := rfl
@[simp] theorem drawByte_inbox (s : State) : (drawByte s).2.inbox = s.inbox := rfl

@[simp] theorem drawLevel_cs (s : State) : (drawLevel s).2.cs = s.cs := rfl
@[simp] theorem drawLevel_clk (s : State) : (drawLevel s).2.clk = s.clk := rfl
@[simp] theorem drawLevel_dir (s : State) : (drawLevel s).2.dir = s.dir := rfl
@[simp] theorem drawLevel_dout (s : State) : (drawLevel s).2.dout = s.dout := rfl
@[simp] theorem drawLevel_res (s : State) : (drawLevel s).2.res = s.res := rfl
@[simp] theorem drawLevel_status (s : State) : (drawLevel s).2.status = s.status := rfl
@[simp] theorem drawLevel_seq (s : State) : (drawLevel s).2.seq = s.seq := rfl
@[simp] theorem drawLevel_regs (s : State) : (drawLevel s).2.regs = s.regs := rfl
@[simp] theorem drawLevel_bus (s : State) : (drawLevel s).2.bus = s.bus := rfl
@[simp] theorem drawLevel_par (s : State) : (drawLevel s).2.par = s.par := rfl
@[simp] theorem drawLevel_ticks (s : State) : (drawLevel s).2.ticks = s.ticks := rfl
@[simp] theorem drawLevel_draws (s : State) : (drawLevel s).2.draws = s.draws + 1 := rfl
@[simp] theorem drawLevel_inbox (s : State) : (drawLevel s).2.inbox = s.inbox := rfl

@[simp] theorem drawByte_fst (s : State) : (drawByte s).1 = Config.anyByte s.draws := rfl
@[simp] theorem drawLevel_fst (s : State) : (drawLevel s).1 = Config.anyLevel s.draws := rfl

@[simp] theorem drawSamples_cs (s : State) : (drawSamples s).2.cs = s.cs := rfl
@[simp] theorem drawSamples_clk (s : State) : (drawSamples s).2.clk = s.clk := rfl
@[simp] theorem drawSamples_dir (s : State) : (drawSamples s).2.dir = s.dir := rfl
@[simp] theorem drawSamples_dout (s : State) : (drawSamples s).2.dout = s.dout := rfl
@[simp] theorem drawSamples_res (s : State) : (drawSamples s).2.res = s.res := rfl
@[simp] theorem drawSamples_status (s : State) : (drawSamples s).2.status = s.status := rfl
@[simp] theorem drawSamples_seq (s : State) : (drawSamples s).2.seq = s.seq := rfl
@[simp] theorem drawSamples_regs (s : State) : (drawSamples s).2.regs = s.regs := rfl
@[simp] theorem drawSamples_bus (s : State) : (drawSamples s).2.bus = s.bus := rfl
@[simp] theorem drawSamples_par (s : State) : (drawSamples s).2.par = s.par := rfl
@[simp] theorem drawSamples_ticks (s : State) : (drawSamples s).2.ticks = s.ticks := rfl
@[simp] theorem drawSamples_inbox (s : State) : (drawSamples s).2.inbox = s.inbox := rfl
@[simp] theorem drawSamples_draws (s : State) : (drawSamples s).2.draws = s.draws + 8 := rfl

/-! ### The link to the device -/

/-- A device listens exactly when it is not absent (60_exceptions.md R252). -/
theorem deviceListens_iff {s : State} : deviceListens s = true ↔ Listens s := by
  unfold deviceListens Listens
  cases s.par.link <;> simp

/-- A device that answers listens. -/
theorem Answers.listens {s : State} (h : Answers s) : Listens s := by simp [Answers] at h; simp [Listens, h]

/-- The bus slave of a device that listens, at the start and the end of a frame (47_device_target.md R212). -/
theorem slaveIdle_of_listens {s : State} (h : Listens s) : slaveIdle s = { s.bus with cnt := 0, drv := false } := by
  simp [slaveIdle, deviceListens_iff.2 h]

/-- Nothing changes on a bus slave that is not there. -/
theorem slaveIdle_of_absent {s : State} (h : s.par.link = .absent) : slaveIdle s = s.bus := by
  simp [slaveIdle, deviceListens, h]

/-! ### The register file -/

@[simp] theorem regsTick_wp (t : TickNext) (d : RegFile) : (regsTick t d).wp = d.wp := by
  unfold regsTick; split <;> rfl
@[simp] theorem regsTick_ctl (t : TickNext) (d : RegFile) : (regsTick t d).ctl = d.ctl := by
  unfold regsTick; split <;> rfl
@[simp] theorem regsTick_ram (t : TickNext) (d : RegFile) : (regsTick t d).ram = d.ram := by
  unfold regsTick; split <;> rfl

/-- A write to a named register leaves the RAM alone. -/
@[simp] theorem regWrite_ram (d : RegFile) (r : Reg) (v : Byte) : (regWrite d r v).ram = d.ram := by cases r <;> rfl

/-- A named register after a write to a named register (10_state.md R40). -/
@[simp] theorem regRead_regWrite (d : RegFile) (r q : Reg) (v : Byte) :
    regRead (regWrite d r v) q = if q = r then v else regRead d q := by
  cases r <;> cases q <;> rfl

/-- A write to a RAM slot leaves the named registers alone. -/
@[simp] theorem regRead_ramUpdate (d : RegFile) (m : List Host.Cell) (q : Reg) :
    regRead { d with ram := m } q = regRead d q := by
  cases q <;> rfl

end Sys2Proof.Machine
end

