-- ==== Sys2Proof/Laws/Memory.lean ====
section
/-! SUPPORT. The RAM cells: reading after writing, and the canonical form kept; then the places of the register file. -/

namespace Sys2Proof.Machine

/-- A slot below the first one listed reads as unlisted. -/
theorem Memory.read_below {lo a : Nat} {m : List Host.Cell} (hw : Memory.wfFrom lo m = true) (ha : a < lo) :
    Memory.read m a = Memory.unlisted := by
  induction m generalizing lo with
  | nil => rfl
  | cons c rest ih =>
    obtain ⟨k, v⟩ := c
    simp only [Memory.wfFrom, Bool.and_eq_true, decide_eq_true_eq] at hw
    obtain ⟨⟨⟨hk, -⟩, -⟩, hrest⟩ := hw
    rw [Memory.read, if_neg (by omega), ih hrest (by omega)]

/-- The slot written reads as the byte written; every other slot reads as before (46_ram.md R203). -/
theorem Memory.read_write {m : List Host.Cell} {lo : Nat} (hw : Memory.wfFrom lo m = true) (a b : Nat) (v : Byte) :
    Memory.read (Memory.write m a v) b = if b = a then v else Memory.read m b := by
  induction m generalizing lo with
  | nil =>
    unfold Memory.write
    split
    · next h => subst h; split <;> rfl
    · simp only [Memory.read, eq_comm]
  | cons c rest ih =>
    obtain ⟨k, w⟩ := c
    have hw' := hw
    simp only [Memory.wfFrom, Bool.and_eq_true, decide_eq_true_eq] at hw
    obtain ⟨⟨⟨hk, -⟩, -⟩, hrest⟩ := hw
    unfold Memory.write
    split
    · next hak =>
      split
      · next hv =>
        split
        · next hba => subst hba; rw [hv]; exact Memory.read_below (lo := k) (by simp_all [Memory.wfFrom]) hak
        · rfl
      · by_cases hba : b = a
        · subst hba; simp [Memory.read]
        · rw [Memory.read, if_neg (Ne.symm hba), if_neg hba]
    · split
      · next _ hak =>
        subst hak
        split
        · next hv =>
          split
          · next hba => subst hba; rw [hv]; exact Memory.read_below hrest (by omega)
          · next hba => rw [Memory.read, if_neg (fun h => hba h.symm)]
        · by_cases hba : b = a
          · subst hba; simp [Memory.read]
          · rw [Memory.read, if_neg (Ne.symm hba), if_neg hba, Memory.read, if_neg (Ne.symm hba)]
      · next hak =>
        simp only [Memory.read]
        split
        · next hkb => subst hkb; rw [if_neg (fun h => hak h.symm)]
        · exact ih hrest

/-- A write to a slot of the RAM keeps the canonical form. -/
theorem Memory.wfFrom_write {m : List Host.Cell} {lo a : Nat} (hw : Memory.wfFrom lo m = true) (v : Byte) (hlo : lo ≤ a)
    (ha : a < ramSlots) : Memory.wfFrom lo (Memory.write m a v) = true := by
  induction m generalizing lo with
  | nil => unfold Memory.write; split <;> simp_all [Memory.wfFrom]
  | cons c rest ih =>
    obtain ⟨k, w⟩ := c
    simp only [Memory.wfFrom, Bool.and_eq_true, decide_eq_true_eq] at hw
    obtain ⟨⟨⟨hk, hks⟩, hne⟩, hrest⟩ := hw
    unfold Memory.write
    split
    · split <;> simp_all [Memory.wfFrom]
    · split
      · next _ hak =>
        subst hak
        split
        · have h : ∀ (l : List Host.Cell) (i j : Nat), j ≤ i → Memory.wfFrom i l = true → Memory.wfFrom j l = true := by
            intro l i j hij hl
            cases l with
            | nil => rfl
            | cons c t =>
              simp only [Memory.wfFrom, Bool.and_eq_true, decide_eq_true_eq] at hl ⊢
              exact ⟨⟨⟨by omega, hl.1.1.2⟩, hl.1.2⟩, hl.2⟩
          exact h _ _ _ (by omega) hrest
        · simp_all [Memory.wfFrom]
      · simp only [Memory.wfFrom, Bool.and_eq_true, decide_eq_true_eq]
        exact ⟨⟨⟨hk, hks⟩, hne⟩, ih hrest (by omega)⟩

/-- A write to a slot of the RAM keeps the canonical form. -/
theorem Memory.wf_write {m : List Host.Cell} {a : Nat} (hw : Memory.wf m = true) (v : Byte) (ha : a < ramSlots) :
    Memory.wf (Memory.write m a v) = true :=
  Memory.wfFrom_write hw v (Nat.zero_le a) ha

/-- A place after a write to a place. -/
theorem placeRead_placeWrite {d : RegFile} (hw : Memory.wf d.ram = true) (p q : Place) (v : Byte) :
    placeRead (placeWrite d p v) q = if q = p then v else placeRead d q := by
  cases p <;> cases q <;> simp [placeRead, placeWrite, Memory.read_write hw]

/-- What a write at a place does: stored if accepted, nothing at all if not (47_device_target.md R221). -/
theorem placeRead_storeAt {d : RegFile} (hw : Memory.wf d.ram = true) (p q : Place) (v : Byte) :
    placeRead (storeAt d p v) q = if q = p ∧ accepts d p = true then v else placeRead d q := by
  unfold storeAt
  split
  · simp_all [placeRead_placeWrite hw]
  · simp_all

/-- A mapped write address names a RAM slot below 31 or a named register. -/
theorem writePlace_ram_lt {a : Byte} {n : Nat} (h : writePlace a = some (.ram n)) : n < ramSlots := by
  revert h
  unfold writePlace
  split <;> simp
  rintro _ _ _ rfl
  simp only [ramSlots]
  omega

/-- A mapped write address is even (20_memory.md R63). -/
theorem bitOf_of_writePlace {a : Byte} {p : Place} (h : writePlace a = some p) : bitOf a 0 = false := by
  revert h p
  revert a
  decide

/-- A write at a place keeps the canonical form of the RAM. -/
theorem wf_storeAt {d : RegFile} (hw : Memory.wf d.ram = true) {a : Byte} {p : Place} (hp : writePlace a = some p)
    (v : Byte) : Memory.wf (storeAt d p v).ram = true := by
  unfold storeAt
  split
  · cases p with
    | reg r => simpa [placeWrite] using hw
    | ram n => exact Memory.wf_write hw v (writePlace_ram_lt hp)
  · exact hw

end Sys2Proof.Machine
end

