-- ==== Sys2Proof/Laws/PerInstr.lean ====
section
/-! SUPPORT. Statements about every instruction as syntax, one lemma per constructor. Family `Encoding`: the code carries
the opcode or command byte of the instruction's row (30_encoding.md R92, R100). -/

namespace Sys2Proof.Laws.Encoding

/-- The row's opcode (format H) or command byte (format B), from 30_encoding.md R100 and R92. -/
def opcode : Instr → Byte
  | .txb _ => 0x01#8
  | .rxb => 0x02#8
  | .rdreg _ => 0x10#8
  | .wrreg _ _ => 0x11#8
  | .wrprot _ _ => 0x12#8
  | .d2b _ => 0x20#8
  | .b2d _ => 0x21#8
  | .getSec => 0x30#8
  | .getMin => 0x31#8
  | .getHr => 0x32#8
  | .getDay => 0x33#8
  | .getMon => 0x34#8
  | .getWday => 0x35#8
  | .getYr => 0x36#8
  | .setSec _ => 0x40#8
  | .setMin _ => 0x41#8
  | .setHr _ => 0x42#8
  | .setDay _ => 0x43#8
  | .setMon _ => 0x44#8
  | .setWday _ => 0x45#8
  | .setYr _ => 0x46#8
  | .start => 0x50#8
  | .stop => 0x51#8
  | .getdt => 0x60#8
  | .setdt _ _ _ _ _ _ _ => 0x61#8
  | .getdtA => 0x62#8
  | .setdtA _ _ _ _ _ _ _ => 0x63#8
  | .getram _ => 0x70#8
  | .setram _ _ => 0x71#8
  | .wrSec _ => 0x80#8
  | .rdSec => 0x81#8
  | .wrMin _ => 0x82#8
  | .rdMin => 0x83#8
  | .wrHr _ => 0x84#8
  | .rdHr => 0x85#8
  | .wrDay _ => 0x86#8
  | .rdDay => 0x87#8
  | .wrMon _ => 0x88#8
  | .rdMon => 0x89#8
  | .wrWday _ => 0x8A#8
  | .rdWday => 0x8B#8
  | .wrYr _ => 0x8C#8
  | .rdYr => 0x8D#8
  | .wrWp _ => 0x8E#8
  | .rdWp => 0x8F#8
  | .wrCtl _ => 0x90#8
  | .rdCtl => 0x91#8
  | .wrRam s _ => BitVec.ofNat 8 (0xC0 + 2 * s.toNat)
  | .rdRam s => BitVec.ofNat 8 (0xC1 + 2 * s.toNat)

/-- The first byte of a code: the opcode of a command word, the command byte of a frame. -/
def firstByte : Code → Byte
  | .host w => opcodeOf w
  | .bus f => commandByteOf f

/-- The instruction's code carries its row's opcode. -/
def Statement (i : Instr) : Prop := firstByte (encode i) = opcode i

/-- The opcode field of a command word built from its fields. -/
theorem opcodeOf_hostWord (op : Byte) (a0 a1 a2 a3 a4 a5 a6 : Half) :
    opcodeOf (hostWord op a0 a1 a2 a3 a4 a5 a6) = op := by
  simp only [opcodeOf, hostWord]
  apply BitVec.eq_of_getLsbD_eq
  intro i hi
  simp [hi, show i < 24 by omega, show i < 40 by omega, show i < 56 by omega, show i < 72 by omega,
    show i < 88 by omega, show i < 104 by omega, show i < 120 by omega]

/-- The command byte of a frame built from its bytes. -/
theorem commandByteOf_frameOf (c d : Byte) : commandByteOf (frameOf c d) = c := by
  simp only [commandByteOf, frameOf]
  apply BitVec.eq_of_getLsbD_eq
  intro i hi
  simp [hi, show i < 16 by omega]

theorem txb (value : Byte) : Statement (.txb value) := opcodeOf_hostWord _ _ _ _ _ _ _ _
theorem rxb : Statement .rxb := opcodeOf_hostWord _ _ _ _ _ _ _ _
theorem rdreg (addr : Byte) : Statement (.rdreg addr) := opcodeOf_hostWord _ _ _ _ _ _ _ _
theorem wrreg (addr : Byte) (value : Byte) : Statement (.wrreg addr value) := opcodeOf_hostWord _ _ _ _ _ _ _ _
theorem wrprot (addr : Byte) (value : Byte) : Statement (.wrprot addr value) := opcodeOf_hostWord _ _ _ _ _ _ _ _
theorem d2b (n : Byte) : Statement (.d2b n) := opcodeOf_hostWord _ _ _ _ _ _ _ _
theorem b2d (b : Byte) : Statement (.b2d b) := opcodeOf_hostWord _ _ _ _ _ _ _ _
theorem getSec : Statement .getSec := opcodeOf_hostWord _ _ _ _ _ _ _ _
theorem getMin : Statement .getMin := opcodeOf_hostWord _ _ _ _ _ _ _ _
theorem getHr : Statement .getHr := opcodeOf_hostWord _ _ _ _ _ _ _ _
theorem getDay : Statement .getDay := opcodeOf_hostWord _ _ _ _ _ _ _ _
theorem getMon : Statement .getMon := opcodeOf_hostWord _ _ _ _ _ _ _ _
theorem getWday : Statement .getWday := opcodeOf_hostWord _ _ _ _ _ _ _ _
theorem getYr : Statement .getYr := opcodeOf_hostWord _ _ _ _ _ _ _ _
theorem setSec (v : Half) : Statement (.setSec v) := opcodeOf_hostWord _ _ _ _ _ _ _ _
theorem setMin (v : Half) : Statement (.setMin v) := opcodeOf_hostWord _ _ _ _ _ _ _ _
theorem setHr (v : Half) : Statement (.setHr v) := opcodeOf_hostWord _ _ _ _ _ _ _ _
theorem setDay (v : Half) : Statement (.setDay v) := opcodeOf_hostWord _ _ _ _ _ _ _ _
theorem setMon (v : Half) : Statement (.setMon v) := opcodeOf_hostWord _ _ _ _ _ _ _ _
theorem setWday (v : Half) : Statement (.setWday v) := opcodeOf_hostWord _ _ _ _ _ _ _ _
theorem setYr (v : Half) : Statement (.setYr v) := opcodeOf_hostWord _ _ _ _ _ _ _ _
theorem start : Statement .start := opcodeOf_hostWord _ _ _ _ _ _ _ _
theorem stop : Statement .stop := opcodeOf_hostWord _ _ _ _ _ _ _ _
theorem getdt : Statement .getdt := opcodeOf_hostWord _ _ _ _ _ _ _ _
theorem setdt (year : Half) (month : Half) (day : Half) (weekday : Half) (hour : Half) (minute : Half) (second : Half) : Statement (.setdt year month day weekday hour minute second) := opcodeOf_hostWord _ _ _ _ _ _ _ _
theorem getdtA : Statement .getdtA := opcodeOf_hostWord _ _ _ _ _ _ _ _
theorem setdtA (year : Half) (month : Half) (day : Half) (weekday : Half) (hour : Half) (minute : Half) (second : Half) : Statement (.setdtA year month day weekday hour minute second) := opcodeOf_hostWord _ _ _ _ _ _ _ _
theorem getram (slot : Half) : Statement (.getram slot) := opcodeOf_hostWord _ _ _ _ _ _ _ _
theorem setram (slot : Half) (value : Byte) : Statement (.setram slot value) := opcodeOf_hostWord _ _ _ _ _ _ _ _
theorem wrSec (d : Byte) : Statement (.wrSec d) := commandByteOf_frameOf _ _
theorem rdSec : Statement .rdSec := commandByteOf_frameOf _ _
theorem wrMin (d : Byte) : Statement (.wrMin d) := commandByteOf_frameOf _ _
theorem rdMin : Statement .rdMin := commandByteOf_frameOf _ _
theorem wrHr (d : Byte) : Statement (.wrHr d) := commandByteOf_frameOf _ _
theorem rdHr : Statement .rdHr := commandByteOf_frameOf _ _
theorem wrDay (d : Byte) : Statement (.wrDay d) := commandByteOf_frameOf _ _
theorem rdDay : Statement .rdDay := commandByteOf_frameOf _ _
theorem wrMon (d : Byte) : Statement (.wrMon d) := commandByteOf_frameOf _ _
theorem rdMon : Statement .rdMon := commandByteOf_frameOf _ _
theorem wrWday (d : Byte) : Statement (.wrWday d) := commandByteOf_frameOf _ _
theorem rdWday : Statement .rdWday := commandByteOf_frameOf _ _
theorem wrYr (d : Byte) : Statement (.wrYr d) := commandByteOf_frameOf _ _
theorem rdYr : Statement .rdYr := commandByteOf_frameOf _ _
theorem wrWp (d : Byte) : Statement (.wrWp d) := commandByteOf_frameOf _ _
theorem rdWp : Statement .rdWp := commandByteOf_frameOf _ _
theorem wrCtl (d : Byte) : Statement (.wrCtl d) := commandByteOf_frameOf _ _
theorem rdCtl : Statement .rdCtl := commandByteOf_frameOf _ _
theorem wrRam (slot : BitVec 5) (d : Byte) : Statement (.wrRam slot d) :=
  (commandByteOf_frameOf _ _).trans (by simp only [opcode]; revert slot; decide)
theorem rdRam (slot : BitVec 5) : Statement (.rdRam slot) :=
  (commandByteOf_frameOf _ _).trans (by simp only [opcode]; revert slot; decide)

end Sys2Proof.Laws.Encoding
end

