-- ==== Sys2Proof/Laws/Ticks.lean ====
section
/-! SUPPORT. What the TICK steps before a frame change: the seven calendar registers and the schedule, nothing else. -/

namespace Sys2Proof.Machine

/-- A halted device does not tick (47_device_target.md R245). -/
theorem regsTick_of_halted {d : RegFile} (t : TickNext) (h : halted d = true) : regsTick t d = d := by
  simp [regsTick, h]

/-- A running device's tick is `tick_next` on the seven calendar registers (47_device_target.md R245). -/
theorem regsTick_of_running {d : RegFile} (t : TickNext) (h : halted d = false) :
    regsTick t d = { d with cal := tickCalendar t d.cal } := by
  simp [regsTick, h]

/-- A halted device's registers stay through any number of ticks. -/
theorem tickTimes_of_halted (n : Nat) {s : State} (h : halted s.regs = true) : tickTimes n s = s := by
  induction n with
  | zero => rfl
  | succ n ih =>
    rw [tickTimes, show tick s = s by simp [tick, regsTick_of_halted _ h], ih]

/-- What `n` ticks leave: one description for every field. -/
theorem tickTimes_eq (n : Nat) (s : State) : ∃ c, tickTimes n s = { s with regs := { s.regs with cal := c } } := by
  induction n generalizing s with
  | zero => exact ⟨s.regs.cal, rfl⟩
  | succ n ih =>
    obtain ⟨c, hc⟩ := ih (tick s)
    refine ⟨c, ?_⟩
    rw [tickTimes, hc]
    unfold tick regsTick
    split <;> rfl

/-- What the ticks before a frame leave: calendar and schedule, nothing else. -/
theorem frameTicks_eq (s : State) :
    ∃ c, frameTicks s = { s with regs := { s.regs with cal := c }, ticks := s.ticks.tail } := by
  unfold frameTicks
  split
  · next h => exact ⟨s.regs.cal, by rw [h, List.tail_nil, ← h]⟩
  · next n rest h =>
    obtain ⟨c, hc⟩ := tickTimes_eq n { s with ticks := rest }
    exact ⟨c, by rw [hc, h]; rfl⟩

@[simp] theorem frameTicks_cs (s : State) : (frameTicks s).cs = s.cs := by obtain ⟨c, h⟩ := frameTicks_eq s; rw [h]
@[simp] theorem frameTicks_clk (s : State) : (frameTicks s).clk = s.clk := by obtain ⟨c, h⟩ := frameTicks_eq s; rw [h]
@[simp] theorem frameTicks_dir (s : State) : (frameTicks s).dir = s.dir := by obtain ⟨c, h⟩ := frameTicks_eq s; rw [h]
@[simp] theorem frameTicks_dout (s : State) : (frameTicks s).dout = s.dout := by
  obtain ⟨c, h⟩ := frameTicks_eq s; rw [h]
@[simp] theorem frameTicks_res (s : State) : (frameTicks s).res = s.res := by obtain ⟨c, h⟩ := frameTicks_eq s; rw [h]
@[simp] theorem frameTicks_status (s : State) : (frameTicks s).status = s.status := by
  obtain ⟨c, h⟩ := frameTicks_eq s; rw [h]
@[simp] theorem frameTicks_seq (s : State) : (frameTicks s).seq = s.seq := by obtain ⟨c, h⟩ := frameTicks_eq s; rw [h]
@[simp] theorem frameTicks_bus (s : State) : (frameTicks s).bus = s.bus := by obtain ⟨c, h⟩ := frameTicks_eq s; rw [h]
@[simp] theorem frameTicks_par (s : State) : (frameTicks s).par = s.par := by obtain ⟨c, h⟩ := frameTicks_eq s; rw [h]
@[simp] theorem frameTicks_ticks (s : State) : (frameTicks s).ticks = s.ticks.tail := by
  obtain ⟨c, h⟩ := frameTicks_eq s; rw [h]
@[simp] theorem frameTicks_draws (s : State) : (frameTicks s).draws = s.draws := by
  obtain ⟨c, h⟩ := frameTicks_eq s; rw [h]
@[simp] theorem frameTicks_inbox (s : State) : (frameTicks s).inbox = s.inbox := by
  obtain ⟨c, h⟩ := frameTicks_eq s; rw [h]
@[simp] theorem frameTicks_wp (s : State) : (frameTicks s).regs.wp = s.regs.wp := by
  obtain ⟨c, h⟩ := frameTicks_eq s; rw [h]
@[simp] theorem frameTicks_ctl (s : State) : (frameTicks s).regs.ctl = s.regs.ctl := by
  obtain ⟨c, h⟩ := frameTicks_eq s; rw [h]
@[simp] theorem frameTicks_ram (s : State) : (frameTicks s).regs.ram = s.regs.ram := by
  obtain ⟨c, h⟩ := frameTicks_eq s; rw [h]

/-- No tick falls before a frame of a halted device. -/
theorem frameTicks_of_halted {s : State} (h : halted s.regs = true) : frameTicks s = { s with ticks := s.ticks.tail } := by
  unfold frameTicks
  split
  · next h' => rw [h', List.tail_nil, ← h']
  · next n rest h' => rw [tickTimes_of_halted n (by simpa using h), h']; rfl

/-- No tick falls before a frame where the schedule is quiet. -/
theorem frameTicks_of_quiet {s : State} {n : Nat} (h : quiet (n + 1) s = true) :
    frameTicks s = { s with ticks := s.ticks.tail } := by
  unfold frameTicks
  split
  · next h' => rw [h', List.tail_nil, ← h']
  · next k rest h' =>
    have hk : k = 0 := by simp_all [quiet]
    subst hk
    rw [h']
    rfl

/-- The schedule stays quiet for the frames that follow. -/
theorem quiet_tail {n : Nat} {l : List Nat} (h : (l.take (n + 1)).all (· == 0) = true) :
    (l.tail.take n).all (· == 0) = true := by
  cases l with
  | nil => simp
  | cons k rest =>
    rw [List.take_succ_cons, List.all_cons, Bool.and_eq_true] at h
    exact h.2

end Sys2Proof.Machine
end

