-- ==== Sys2Proof/Laws/Transfers.lean ====
section
/-! SUPPORT. The line level: running a generator, the inversion of a line event, and what one byte transfer does to the
controller's lines and to the bus slave (40_serial_bus_driver.md, 47_device_target.md part 1). -/

namespace Sys2Proof.Machine

/-! ### Generators -/

/-- Running `p`, then `f` of its answer. -/
theorem Ctrl.run_andThen {α β : Type} (p : Ctrl α) (f : α → Ctrl β) (s : State) :
    (p.andThen f).run s = match p.run s with
      | .ok (a, s') => (f a).run s'
      | .error r => .error r := by
  induction p generalizing s with
  | done a => rfl
  | refuse r => rfl
  | event e k ih =>
    simp only [Ctrl.andThen, Ctrl.run]
    split
    · exact ih _ _
    · rfl
  | outside r e k => rfl

/-- Where the controller ends and with what answer, whether or not the model gives the run a meaning. -/
def Ctrl.finish {α : Type} : Ctrl α → State → Option (α × State)
  | .done a, s => some (a, s)
  | .refuse _, _ => none
  | .event e k, s => (k (goOn e s).1).finish (goOn e s).2
  | .outside _ e k, s => (k (goOn e s).1).finish (goOn e s).2

/-- A run that ends with an answer is the controller's own. -/
theorem Ctrl.finish_of_run {α : Type} {p : Ctrl α} {s : State} {x : α × State} (h : p.run s = .ok x) :
    p.finish s = some x := by
  induction p generalizing s with
  | done a => simpa [Ctrl.run, Ctrl.finish] using h
  | refuse r => cases h
  | outside r e k => cases h
  | event e k ih =>
    simp only [Ctrl.run] at h
    cases he : lineEvent e s with
    | error r => simp [he] at h
    | ok y =>
      simp only [he] at h
      simp only [Ctrl.finish, goOn, he]
      exact ih _ h

/-- The trace of `p`, then that of `f` of its answer. -/
theorem Ctrl.trace_andThen {α β : Type} (p : Ctrl α) (f : α → Ctrl β) (s : State) :
    (p.andThen f).trace s = match p.finish s with
      | some (a, s') => p.trace s ++ (f a).trace s'
      | none => p.trace s := by
  induction p generalizing s with
  | done a => rfl
  | refuse r => rfl
  | event e k ih =>
    simp only [Ctrl.andThen, Ctrl.finish, Ctrl.trace, ih]
    split <;> rfl
  | outside r e k ih =>
    simp only [Ctrl.andThen, Ctrl.finish, Ctrl.trace, ih]
    split <;> rfl

/-- The trace of `p` and of what follows it, where `p` runs to an answer. -/
theorem Ctrl.trace_andThen_of_run {α β : Type} {p : Ctrl α} (f : α → Ctrl β) {s s' : State} {a : α}
    (h : p.run s = .ok (a, s')) : (p.andThen f).trace s = p.trace s ++ (f a).trace s' := by
  rw [Ctrl.trace_andThen, Ctrl.finish_of_run h]

/-- Outside the contract the controller's line events are the same (20_memory.md R64). -/
theorem Ctrl.trace_outsideContract {α β : Type} (r : Refusal) (p : Ctrl α) (s : State) :
    (p.outsideContract r : Ctrl β).trace s = p.trace s := by
  induction p generalizing s with
  | done a => rfl
  | refuse r => rfl
  | event e k ih => simp only [Ctrl.outsideContract, Ctrl.trace, ih]
  | outside r e k ih => simp only [Ctrl.outsideContract, Ctrl.trace, ih]

/-- An operation that has line events is refused once it is outside the contract (20_memory.md R64). -/
theorem Ctrl.run_outsideContract {α β : Type} (r : Refusal) (p : Ctrl α) (s : State) :
    (p.outsideContract r : Ctrl β).run s = .error r := by
  cases p <;> rfl

/-- A command's step answers a next state exactly when its run ends, and the response is then written. -/
theorem perform_eq_next {p : Ctrl Response} {s t : State} :
    perform p s = .next t ↔ ∃ r s', p.run s = .ok (r, s') ∧ t = respond r s' := by
  unfold perform
  cases p.run s with
  | error r => simp
  | ok x =>
    obtain ⟨r, s'⟩ := x
    constructor
    · intro h; cases h; exact ⟨r, s', rfl, rfl⟩
    · rintro ⟨_, _, h, rfl⟩; cases h; rfl

/-- A command's step refuses exactly when its run does. -/
theorem perform_eq_refused {p : Ctrl Response} {s : State} {r : Refusal} :
    perform p s = .refused r ↔ p.run s = .error r := by
  unfold perform
  split <;> simp_all

/-! ### Bits of a byte -/

/-- Bit `j` after bit `i` was set to `b`. -/
theorem getLsbD_setBit (x : Byte) (i j : Nat) (b : Bool) (hi : i < 8) (hj : j < 8) :
    (setBit x i b).getLsbD j = if j = i then b else x.getLsbD j := by
  unfold setBit
  cases b <;> simp [hj] <;> interval_cases i <;> interval_cases j <;> simp

/-- Setting the eight bits of a byte, least significant first, gives the byte (20_memory.md R65). -/
theorem setBit_all (c v : Byte) :
    setBit (setBit (setBit (setBit (setBit (setBit (setBit (setBit c 0 (bitOf v 0)) 1 (bitOf v 1)) 2 (bitOf v 2)) 3
      (bitOf v 3)) 4 (bitOf v 4)) 5 (bitOf v 5)) 6 (bitOf v 6)) 7 (bitOf v 7) = v := by
  apply BitVec.eq_of_getLsbD_eq
  intro i hi
  interval_cases i <;> simp only [getLsbD_setBit, bitOf, reduceIte, Nat.reduceLT, Nat.reduceEqDiff]

/-- The same with bit 0 already known. -/
theorem setBit_all_of_bit0 {b : Bool} (c v : Byte) (h : bitOf v 0 = b) :
    setBit (setBit (setBit (setBit (setBit (setBit (setBit (setBit c 0 b) 1 (bitOf v 1)) 2 (bitOf v 2)) 3
      (bitOf v 3)) 4 (bitOf v 4)) 5 (bitOf v 5)) 6 (bitOf v 6)) 7 (bitOf v 7) = v := by
  rw [← h, setBit_all]

/-! ### One byte on the wire -/

/-- A command byte of a write frame, sent to a device at the start of a frame (47_device_target.md R213, R214). -/
theorem run_transmit_write {a : Byte} {s : State} (hl : Listens s) (hcs : s.cs = true) (hclk : s.clk = false) (hcnt : s.bus.cnt = 0)
    (hdrv : s.bus.drv = false) (ha : bitOf a 0 = false) :
    (transmitByte a).run s =
      .ok ((), { s with dir := .output, dout := bitOf a 7, bus := { s.bus with cmd := a, cnt := 8, wsh := 0#8 } }) := by
  obtain ⟨cs, clk, dir, dout, res, status, seq, regs, ⟨cnt, cmd, wsh, rlat, drv, dbit⟩, ⟨atom, most, tn, link⟩,
    ticks, draws, inbox⟩ := s
  replace hl := deviceListens_iff.2 hl
  simp only [deviceListens] at hl
  simp only at hcs hclk hcnt hdrv
  subst hcs hclk hcnt hdrv
  simp [transmitByte, txBits, lsbFirst, emit, Ctrl.run, lineEvent, clkRise, captureCommand, readData, clkFall,
    commandDone, deviceListens, deviceDrives, hl, ha, setBit_all_of_bit0 _ _ ha]

/-- A command byte of a read frame: at its end the device has latched the byte to send and drives its bit 0
(47_device_target.md R213 to R215). -/
theorem run_transmit_read {a : Byte} {s : State} (hl : Listens s) (hcs : s.cs = true) (hclk : s.clk = false) (hcnt : s.bus.cnt = 0)
    (hdrv : s.bus.drv = false) (ha : bitOf a 0 = true) :
    (transmitByte a).run s =
      .ok ((), { (devRead s a).2 with
        dir := .output, dout := bitOf a 7
        bus := { s.bus with cmd := a, cnt := 8, rlat := (devRead s a).1, drv := true, dbit := bitOf (devRead s a).1 0 } }) := by
  obtain ⟨cs, clk, dir, dout, res, status, seq, regs, ⟨cnt, cmd, wsh, rlat, drv, dbit⟩, ⟨atom, most, tn, link⟩,
    ticks, draws, inbox⟩ := s
  replace hl := deviceListens_iff.2 hl
  simp only [deviceListens] at hl
  simp only at hcs hclk hcnt hdrv
  subst hcs hclk hcnt hdrv
  simp [transmitByte, txBits, lsbFirst, emit, Ctrl.run, lineEvent, clkRise, captureCommand, readData, clkFall,
    commandDone, deviceListens, deviceDrives, hl, ha, setBit_all_of_bit0 _ _ ha]
  unfold devRead
  split <;> simp [drawByte, ha, hl]

/-- The data byte of a read frame: the controller assembles the byte the device latched (40_serial_bus_driver.md R122,
47_device_target.md R215). -/
theorem run_receive {s : State} (hl : Answers s) (hcs : s.cs = true) (hclk : s.clk = false) (hcnt : s.bus.cnt = 8)
    (hdrv : s.bus.drv = true) (hd : s.bus.dbit = bitOf s.bus.rlat 0) (ha : bitOf s.bus.cmd 0 = true) :
    receiveByte.run s =
      .ok (s.bus.rlat, { s with
        dir := .input, bus := { s.bus with cnt := 16, drv := false, dbit := bitOf s.bus.rlat 7 } }) := by
  obtain ⟨cs, clk, dir, dout, res, status, seq, regs, ⟨cnt, cmd, wsh, rlat, drv, dbit⟩, ⟨atom, most, tn, link⟩,
    ticks, draws, inbox⟩ := s
  simp only [Answers] at hl
  simp only at hcs hclk hcnt hdrv ha hd
  subst hl hcs hclk hcnt hdrv hd
  simp [receiveByte, rxBits, lsbFirst, emit, Ctrl.run, lineEvent, clkRise, readData, clkFall, setBit_all, ha, deviceListens, deviceDrives]

/-- The data byte of a write frame: the device performs `DevWrite` at its last rising edge (47_device_target.md R216,
R218). -/
theorem run_transmit_data {v : Byte} {s : State} (hl : Listens s) (hcs : s.cs = true) (hclk : s.clk = false) (hcnt : s.bus.cnt = 8)
    (hdrv : s.bus.drv = false) (ha : bitOf s.bus.cmd 0 = false) :
    (transmitByte v).run s =
      match devWrite s.regs s.bus.cmd v with
      | .ok d => .ok ((), { s with dir := .output, dout := bitOf v 7, regs := d, bus := { s.bus with wsh := v, cnt := 16 } })
      | .error r => .error r := by
  obtain ⟨cs, clk, dir, dout, res, status, seq, regs, ⟨cnt, cmd, wsh, rlat, drv, dbit⟩, ⟨atom, most, tn, link⟩,
    ticks, draws, inbox⟩ := s
  replace hl := deviceListens_iff.2 hl
  simp only [deviceListens] at hl
  simp only at hcs hclk hcnt hdrv ha
  subst hcs hclk hcnt hdrv
  simp [transmitByte, txBits, lsbFirst, emit, Ctrl.run, lineEvent, clkRise, captureData, readData, clkFall, deviceListens,
    deviceDrives, hl, setBit_all, ha]
  cases h : devWrite regs cmd v <;> simp [ha]

/-- The data byte of a read frame on a bad bus: the device does the same, and each sample of the controller is a draw
(60_exceptions.md R252). -/
theorem run_receive_badBus {s : State} (hl : s.par.link = .badBus) (hcs : s.cs = true) (hclk : s.clk = false)
    (hcnt : s.bus.cnt = 8) (hdrv : s.bus.drv = true) (ha : bitOf s.bus.cmd 0 = true) :
    receiveByte.run s =
      .ok ((drawSamples s).1, { (drawSamples s).2 with
        dir := .input, bus := { s.bus with cnt := 16, drv := false, dbit := bitOf s.bus.rlat 7 } }) := by
  obtain ⟨cs, clk, dir, dout, res, status, seq, regs, ⟨cnt, cmd, wsh, rlat, drv, dbit⟩, ⟨atom, most, tn, link⟩,
    ticks, draws, inbox⟩ := s
  simp only at hl hcs hclk hcnt hdrv ha
  subst hl hcs hclk hcnt hdrv
  simp [receiveByte, rxBits, lsbFirst, emit, Ctrl.run, lineEvent, clkRise, readData, clkFall, ha, deviceListens,
    deviceDrives, drawLevel, drawSamples]

/-- A transmitted byte with no device attached: the controller's lines move and nothing reacts (60_exceptions.md R252). -/
theorem run_transmit_absent {v : Byte} {s : State} (hl : s.par.link = .absent) (hclk : s.clk = false) :
    (transmitByte v).run s = .ok ((), { s with dir := .output, dout := bitOf v 7 }) := by
  obtain ⟨cs, clk, dir, dout, res, status, seq, regs, bus, ⟨atom, most, tn, link⟩,
    ticks, draws, inbox⟩ := s
  simp only at hl hclk
  subst hl hclk
  simp [transmitByte, txBits, lsbFirst, emit, Ctrl.run, lineEvent, clkRise, clkFall, deviceListens]

/-- A received byte with no device attached: each sample is a draw (93_implementation_defined.md U2). -/
theorem run_receive_absent {s : State} (hl : s.par.link = .absent) (hclk : s.clk = false) :
    receiveByte.run s = .ok ((drawSamples s).1, { (drawSamples s).2 with dir := .input }) := by
  obtain ⟨cs, clk, dir, dout, res, status, seq, regs, bus, ⟨atom, most, tn, link⟩,
    ticks, draws, inbox⟩ := s
  simp only at hl hclk
  subst hl hclk
  simp [receiveByte, rxBits, lsbFirst, emit, Ctrl.run, lineEvent, clkRise, readData, clkFall, deviceListens, deviceDrives,
    drawLevel, drawSamples]

/-! ### Inversion of a line event -/

/-- Everything a read of DATA can do (10_state.md R25). -/
theorem readData_snd (s : State) : (readData s).2 = s ∨ (readData s).2 = { s with draws := s.draws + 1 } := by
  unfold readData
  split <;> (try split) <;> simp [drawLevel]

/-- Everything `DevRead` can do to the state (47_device_target.md R220, R224). -/
theorem devRead_snd (s : State) (a : Byte) :
    ((readPlace a).isSome = true ∧ (devRead s a).2 = s) ∨
      (readPlace a = none ∧ devRead s a = (Config.anyByte s.draws, { s with draws := s.draws + 1 })) := by
  unfold devRead
  split <;> simp_all [drawByte]

/-- Everything `DevWrite` can do (47_device_target.md R221, R224). -/
theorem devWrite_cases (d : RegFile) (a v : Byte) :
    (∃ p, writePlace a = some p ∧ devWrite d a v = .ok (storeAt d p v)) ∨
      (writePlace a = none ∧ devWrite d a v = .error .unmappedWrite) := by
  unfold devWrite
  split <;> simp_all

end Sys2Proof.Machine
end

