-- ==== Sys2Proof/Tests/Slice0.lean ====
section
/-! SUPPORT. Tests of one step each, with expected values from the tables of 95_test_vectors.md, and for every statement
with hypotheses a named state that meets them. -/

open Sys2Proof Sys2Proof.Machine

namespace Sys2Proof.Tests

/-! ### Helpers -/

/-- A register file, in the order of 95_test_vectors.md: `SEC MIN HR DAY MON WDAY YR WP CTL`. -/
def regsOf (sec min hr day mon wday yr wp ctl : Byte) : RegFile where
  cal := { sec := sec, min := min, hr := hr, day := day, mon := mon, wday := wday, yr := yr }
  wp  := wp
  ctl := ctl
  ram := []

/-- The reset state with a register file. -/
def stateOf (r : RegFile) : State := { State.reset with regs := r }

/-- `45 03 18 25 03 05 22 80 00`: running and locked, the start of most vectors. -/
def dated : State := stateOf (regsOf 0x45 0x03 0x18 0x25 0x03 0x05 0x22 0x80 0x00)

/-- The same, halted at 45 s. -/
def datedHalted : State := stateOf (regsOf 0xC5 0x03 0x18 0x25 0x03 0x05 0x22 0x80 0x00)

/-- The same, unlocked. -/
def datedUnlocked : State := stateOf (regsOf 0x45 0x03 0x18 0x25 0x03 0x05 0x22 0x00 0x00)

/-- `7A 60 24 00 13 08 FF 80 A5`, the registers of program P5. -/
def garbage : State := stateOf (regsOf 0x7A 0x60 0x24 0x00 0x13 0x08 0xFF 0x80 0xA5)

/-- `59 59 23 31 12 07 99 80 00`, the registers of program P6. -/
def newYear : State := stateOf (regsOf 0x59 0x59 0x23 0x31 0x12 0x07 0x99 0x80 0x00)

/-- `RAM[0] = 0x11`, `RAM[1] = 0x22`, locked, the start of program P2. -/
def filled : State := { dated with regs := { dated.regs with ram := [(0, 0x11#8), (1, 0x22#8)] } }

/-- The same, unlocked. -/
def filledUnlocked : State := { dated with regs := { datedUnlocked.regs with ram := [(0, 0x11#8), (1, 0x22#8)] } }

/-- A device without the optional operations. -/
def plain : State := { dated with par := { dated.par with hasAtomicDT := false } }

/-- The lines of the controller lead to no device. -/
def alone : State := { dated with par := { dated.par with link := .absent } }

/-- They lead to a device on a bad bus. -/
def onBadBus : State := { dated with par := { dated.par with link := .badBus } }

/-- A schedule of TICK, with the reference instance of `tick_next`. -/
def ticking (ticks : List Nat) (s : State) : State :=
  { s with par := { s.par with tickNext := .reference }, ticks := ticks }

/-- A frame just begun: CS high, no edge counted. -/
def frameBegun : State := csRise dated

/-- A read frame of SEC after its command byte: the device drives bit 0. -/
def readOpen : State :=
  { dated with cs := true, bus := { dated.bus with cnt := 8, cmd := 0x81#8, rlat := 0x45#8, drv := true, dbit := true } }

/-- A write frame to WP after its command byte. -/
def writeBegun : State := { dated with cs := true, bus := { dated.bus with cnt := 8, cmd := 0x8E#8 } }

/-- A write frame to `a` cut after `cnt` rising edges. -/
def writeCutAt (cnt : Nat) (a : Byte) : State :=
  { dated with
    cs := true
    bus := { dated.bus with cnt := cnt, cmd := a }
    seq := .running (.wrprot a 0x18#8) []
    inbox := [.reset] }

/-- A write frame to `a` cut after its command byte. -/
def writeCut (a : Byte) : State := writeCutAt 9 a

/-- The next state of an outcome, if it is one. -/
def nextOf (o : Host.Outcome State Fault Refusal) : Option State :=
  match o with
  | .next t => some t
  | _ => none

/-- Why an outcome is a refusal, if it is one. -/
def refusalOf (o : Host.Outcome State Fault Refusal) : Option Refusal :=
  match o with
  | .refused r => some r
  | _ => none

/-- The step that runs the command of a host word. -/
def hostStep (w : Nat) (s : State) : Option State := nextOf (step (s.withFetchWord 120 w))

/-- The step that applies a frame `{dat, cmd}` to the device. -/
def frameStep (f : Nat) (s : State) : Option State := nextOf (step (s.withFetchWord 16 f))

/-- The response: the seven results and the status. -/
def responseOf (t : State) : List Half × Half :=
  ([t.res.r0, t.res.r1, t.res.r2, t.res.r3, t.res.r4, t.res.r5, t.res.r6], t.status)

/-- `RES[0]` and STATUS. -/
def answerOf (t : State) : Half × Half := (t.res.r0, t.status)

/-! ### Well-formed terms -/

/-- Slot 31 is no RAM command (30_encoding.md R93). -/
theorem test_slot31_ill_formed :
    (Instr.wrRam 31#5 0xAB#8).wellFormed = false ∧ (Instr.rdRam 31#5).wellFormed = false := by decide

/-- Slots 0 and 30 are, and every other term (30_encoding.md R92, R96). -/
theorem test_well_formed :
    (Instr.wrRam 30#5 0xAB#8).wellFormed = true ∧ (Instr.rdRam 0#5).wellFormed = true ∧
    (Instr.setMon 65535#16).wellFormed = true ∧ (Instr.rdreg 0x93#8).wellFormed = true := by decide

/-! ### Decoding, a word of every row (30_encoding.md R92, R95, R96, R100) -/

theorem test_decode_driver :
    decodeTableWord 120 0xB201 = some (.txb 0xB2#8) ∧ decodeTableWord 120 0x02 = some .rxb := by decide

theorem test_decode_register_access :
    decodeTableWord 120 0x8110 = some (.rdreg 0x81#8) ∧
    decodeTableWord 120 0x7F008E11 = some (.wrreg 0x8E#8 0x7F#8) ∧
    decodeTableWord 120 0x5A009012 = some (.wrprot 0x90#8 0x5A#8) := by decide

theorem test_decode_codec :
    decodeTableWord 120 0x2D20 = some (.d2b 45#8) ∧ decodeTableWord 120 0x4521 = some (.b2d 0x45#8) := by decide

theorem test_decode_gets :
    decodeTableWord 120 0x30 = some .getSec ∧ decodeTableWord 120 0x31 = some .getMin ∧
    decodeTableWord 120 0x32 = some .getHr ∧ decodeTableWord 120 0x33 = some .getDay ∧
    decodeTableWord 120 0x34 = some .getMon ∧ decodeTableWord 120 0x35 = some .getWday ∧
    decodeTableWord 120 0x36 = some .getYr := by decide

theorem test_decode_sets :
    decodeTableWord 120 0x004B40 = some (.setSec 75#16) ∧ decodeTableWord 120 0x003B41 = some (.setMin 59#16) ∧
    decodeTableWord 120 0x001242 = some (.setHr 18#16) ∧ decodeTableWord 120 0x002043 = some (.setDay 32#16) ∧
    decodeTableWord 120 0xFFFF44 = some (.setMon 65535#16) ∧ decodeTableWord 120 0x000F45 = some (.setWday 15#16) ∧
    decodeTableWord 120 0x07CF46 = some (.setYr 1999#16) := by decide

theorem test_decode_oscillator :
    decodeTableWord 120 0x50 = some .start ∧ decodeTableWord 120 0x51 = some .stop := by decide

theorem test_decode_snapshots :
    decodeTableWord 120 0x60 = some .getdt ∧ decodeTableWord 120 0x62 = some .getdtA ∧
    decodeTableWord 120 0x002D0003001200050019000307E661 = some (.setdt 2022#16 3#16 25#16 5#16 18#16 3#16 45#16) ∧
    decodeTableWord 120 0x002D0003001200050019000307E663 = some (.setdtA 2022#16 3#16 25#16 5#16 18#16 3#16 45#16) := by
  decide

theorem test_decode_ram :
    decodeTableWord 120 0x1F70 = some (.getram 31#16) ∧ decodeTableWord 120 0xCD001F71 = some (.setram 31#16 0xCD#8) := by
  decide

theorem test_decode_bus_writes :
    decodeTableWord 16 0xC580 = some (.wrSec 0xC5#8) ∧ decodeTableWord 16 0x0382 = some (.wrMin 0x03#8) ∧
    decodeTableWord 16 0x1884 = some (.wrHr 0x18#8) ∧ decodeTableWord 16 0x2586 = some (.wrDay 0x25#8) ∧
    decodeTableWord 16 0x0388 = some (.wrMon 0x03#8) ∧ decodeTableWord 16 0x058A = some (.wrWday 0x05#8) ∧
    decodeTableWord 16 0x228C = some (.wrYr 0x22#8) ∧ decodeTableWord 16 0x008E = some (.wrWp 0x00#8) ∧
    decodeTableWord 16 0xA590 = some (.wrCtl 0xA5#8) ∧ decodeTableWord 16 0xABFC = some (.wrRam 30#5 0xAB#8) := by decide

theorem test_decode_bus_reads :
    decodeTableWord 8 0x81 = some .rdSec ∧ decodeTableWord 8 0x83 = some .rdMin ∧ decodeTableWord 8 0x85 = some .rdHr ∧
    decodeTableWord 8 0x87 = some .rdDay ∧ decodeTableWord 8 0x89 = some .rdMon ∧ decodeTableWord 8 0x8B = some .rdWday ∧
    decodeTableWord 8 0x8D = some .rdYr ∧ decodeTableWord 8 0x8F = some .rdWp ∧ decodeTableWord 8 0x91 = some .rdCtl ∧
    decodeTableWord 8 0xC3 = some (.rdRam 1#5) := by decide

/-- The last mapped byte of each part of the map and the first byte after it (30_encoding.md R93). -/
theorem test_decode_unmapped :
    decodeFrame 0x0092#16 = .error .unmappedCommand ∧ decodeFrame 0x007F#16 = .error .unmappedCommand ∧
    decodeFrame 0x00BF#16 = .error .unmappedCommand ∧ decodeFrame 0x00FE#16 = .error .unmappedCommand ∧
    decodeFrame 0x00FF#16 = .error .unmappedCommand ∧ decodeFrame 0x00FD#16 = .ok (.rdRam 30#5) := by decide

/-- The illegal words of 95_test_vectors.md section 2.10. -/
theorem test_illegal_words :
    hostDecode true 0#120 = .error .unlistedOpcode ∧ hostDecode true 0x4501#120 = .error .internalOperation ∧
    hostDecode true 0x02#120 = .error .internalOperation ∧ hostDecode true 0x8E11#120 = .error .internalOperation ∧
    hostDecode true 0x37#120 = .error .unlistedOpcode ∧ hostDecode true 0xFF#120 = .error .unlistedOpcode ∧
    hostDecode true 0x018110#120 = .error .mustBeZero ∧ hostDecode true 0x01008110#120 = .error .mustBeZero ∧
    hostDecode true 0x0130#120 = .error .mustBeZero ∧ hostDecode true 0x0100000071#120 = .error .mustBeZero ∧
    hostDecode true 0x010020#120 = .error .mustBeZero ∧
    hostDecode true 0x000100000000000000000000000060#120 = .error .mustBeZero ∧
    hostDecode false 0x62#120 = .error .absentOption := by decide

/-! ### Driver and register access -/

/-- S5: `TXB 0xB2` drives `0,1,0,0,1,1,0,1`. -/
theorem test_txb_levels :
    ((transmitByte 0xB2#8).trace frameBegun).filterMap (fun e => match e with | .dout b => some b | _ => none) =
      [false, true, false, false, true, true, false, true] := by decide

/-- The command byte 0x8E arrives whole (40_serial_bus_driver.md R121, 47_device_target.md R213). -/
theorem test_txb_captured :
    (nextOf (exec (.txb 0x8E#8) frameBegun)).map (fun t => (t.bus.cmd, t.bus.cnt, t.clk, t.dir)) =
      some (0x8E#8, 8, false, Dir.output) := by decide

/-- Samples `1,0,1,0,0,0,1,0` give 0x45 (95_test_vectors.md section 2.1). -/
theorem test_rxb_assembles : (nextOf (exec .rxb readOpen)).map answerOf = some (0x45#16, 0#16) := by decide

/-- The worked trace of section 2.2: `RDREG 0x81` with `SEC = 0x45`, and the lines after it. -/
theorem test_rdreg :
    (hostStep 0x8110 dated).map (fun t => (answerOf t, t.cs, t.clk, t.dir, t.dout)) =
      some ((0x45#16, 0#16), false, false, Dir.input, true) := by decide

/-- `RDREG 0x80` is outside the contract and refused by the model (20_memory.md R64). -/
theorem test_rdreg_even : refusalOf (step (dated.withFetchWord 120 0x8010)) = some .readFromWriteAddress := by decide

/-- Its 52 line events are those of any RDREG, and so are WRPROT's 156 at an odd address (20_memory.md R64). -/
theorem test_events_outside_contract :
    (rdregProg 0x80#8).trace dated = readEvents 0x80#8 ∧ (readEvents 0x80#8).length = 52 ∧
    (wrregProg 0x81#8 0#8).trace dated = writeEvents 0x81#8 0#8 ∧ (protectedEvents 0x81#8 0#8).length = 156 := by
  decide +kernel

/-- By lines `RDREG 0x80` begins like any RDREG. -/
theorem test_by_line_outside_contract :
    nextOf (step { dated with inbox := [.hostByLine 0x8010#120] }) = some { dated with seq := .running (.rdreg 0x80#8) [] } ∧
    nextOf (step { dated with seq := .running (.rdreg 0x80#8) [] }) =
      some { dated with cs := true, seq := .running (.rdreg 0x80#8) [false] } ∧
    refusalOf (step { dated with
      cs := true, bus := { dated.bus with cnt := 16, cmd := 0x80#8 }, seq := .running (.rdreg 0x80#8) (List.replicate 51 false) }) =
      some .readFromWriteAddress := by decide +kernel

/-- An unmapped write address leaves WRPROT's line events as they are too (95_test_vectors.md section 2.2). -/
theorem test_events_unmapped : (wrregProg 0x92#8 0#8).trace dated = writeEvents 0x92#8 0#8 := by decide +kernel

/-- A bare write to a locked device is lost (20_memory.md R71). -/
theorem test_wrreg_locked : (hostStep 0x18008411 dated).map (fun t => t.regs) = some dated.regs := by decide

theorem test_wrreg_unlock : (hostStep 0x00008E11 dated).map (fun t => t.regs.wp) = some 0x00#8 := by decide

/-- `WRPROT 0x84, 0x18` on an unlocked device (section 2.2). -/
theorem test_wrprot :
    (hostStep 0x18008412 datedUnlocked).map (fun t => t.regs) = some dated.regs := by decide

/-- `WRPROT 0x8E, 0x55` ends as 0x80; `WRPROT 0x92, 0x00` is refused by the model (section 2.2). -/
theorem test_wrprot_edges :
    (hostStep 0x55008E12 dated).map (fun t => t.regs.wp) = some 0x80#8 ∧
    refusalOf (step (dated.withFetchWord 120 0x00009212)) = some .unmappedWrite := by decide

/-! ### Codec -/

theorem test_d2b :
    (hostStep 0x2D20 dated).map answerOf = some (0x45#16, 0#16) ∧ (hostStep 0xFF20 dated).map answerOf = some (0x195#16, 0#16) := by
  decide

theorem test_b2d :
    (hostStep 0xC521 dated).map answerOf = some (125#16, 0#16) ∧ (hostStep 0xFF21 dated).map answerOf = some (165#16, 0#16) := by
  decide

/-! ### Calendar fields (sections 2.4 and 2.5) -/

theorem test_get_sec : (hostStep 0x30 datedHalted).map answerOf = some (5#16, 1#16) := by decide

theorem test_get_sec_invalid : (hostStep 0x30 garbage).map answerOf = some (20#16, 1#16) := by decide

theorem test_get_min : (hostStep 0x31 garbage).map answerOf = some (60#16, 1#16) := by decide

theorem test_get_hr : (hostStep 0x32 garbage).map answerOf = some (24#16, 1#16) := by decide

theorem test_get_day : (hostStep 0x33 garbage).map answerOf = some (0#16, 0#16) := by decide

theorem test_get_mon : (hostStep 0x34 garbage).map answerOf = some (13#16, 1#16) := by decide

/-- 0x0C decodes to 12 but its low nibble is invalid. -/
theorem test_get_mon_nibble :
    (hostStep 0x34 (stateOf (regsOf 0 0 0 0 0x0C 0 0 0 0))).map answerOf = some (12#16, 1#16) := by decide

theorem test_get_wday : (hostStep 0x35 garbage).map answerOf = some (8#16, 1#16) := by decide

theorem test_get_yr : (hostStep 0x36 garbage).map answerOf = some (2165#16, 1#16) := by decide

/-- `SET.SEC 75` writes 0x15 and releases the oscillator. -/
theorem test_set_sec :
    (hostStep 0x4B40 datedHalted).map (fun t => t.regs) =
      some (regsOf 0x15 0x03 0x18 0x25 0x03 0x05 0x22 0x80 0x00) := by decide

theorem test_set_min : (hostStep 0x3B41 dated).map (fun t => t.regs.cal.min) = some 0x59#8 := by decide

theorem test_set_hr : (hostStep 0xFFFF42 dated).map (fun t => t.regs.cal.hr) = some 0x15#8 := by decide

theorem test_set_day : (hostStep 0x1F43 dated).map (fun t => t.regs.cal.day) = some 0x31#8 := by decide

theorem test_set_mon : (hostStep 0xFFFF44 dated).map (fun t => t.regs.cal.mon) = some 0x02#8 := by decide

theorem test_set_wday : (hostStep 0x0F45 dated).map (fun t => t.regs.cal.wday) = some 0x07#8 := by decide

theorem test_set_yr : (hostStep 0x07CF46 dated).map (fun t => t.regs.cal.yr) = some 0x99#8 := by decide

/-! ### Oscillator (section 2.6, program P7) -/

theorem test_stop : (hostStep 0x51 dated).map (fun t => t.regs) = some datedHalted.regs := by decide

/-- P7: a TICK after STOP's read frame advances the minute, and the old seconds are written back. -/
theorem test_stop_race :
    (hostStep 0x51 (ticking [0, 1] (stateOf (regsOf 0x59 0x03 0x18 0x25 0x03 0x05 0x22 0x80 0x00)))).map (fun t => t.regs) =
      some (regsOf 0xD9 0x04 0x18 0x25 0x03 0x05 0x22 0x80 0x00) := by decide

theorem test_start : (hostStep 0x50 datedHalted).map (fun t => t.regs) = some dated.regs := by decide

/-- Invalid BCD is preserved, without a flag. -/
theorem test_start_invalid :
    (hostStep 0x50 (stateOf (regsOf 0xFF 0 0 0 0 0 0 0x80 0))).map (fun t => (t.regs.cal.sec, t.status)) =
      some (0x7F#8, 0#16) := by decide

/-! ### Snapshots (section 2.7, programs P1, P5, P6) -/

set_option maxRecDepth 100000 in
theorem test_getdt :
    (hostStep 0x60 garbage).map responseOf = some ([2165#16, 13#16, 0#16, 8#16, 24#16, 60#16, 20#16], 0x7B#16) := by decide

set_option maxRecDepth 100000 in
/-- P6: the roll-over between the fifth and the sixth frame gives a time that never was. -/
theorem test_getdt_torn :
    (hostStep 0x60 (ticking [0, 0, 0, 0, 0, 1] newYear)).map responseOf =
      some ([2099#16, 12#16, 31#16, 7#16, 23#16, 0#16, 0#16], 0#16) := by decide +kernel

set_option maxRecDepth 100000 in
/-- P1 from a halted, unlocked device. -/
theorem test_setdt :
    (hostStep 0x002D0003001200050019000307E661 (stateOf (regsOf 0xC5 0x59 0x23 0x31 0x12 0x07 0x99 0x00 0x00))).map
      (fun t => t.regs) = some dated.regs := by decide +kernel

set_option maxRecDepth 100000 in
theorem test_setdt_wraps :
    (hostStep 0xFFFFFFFFFFFFFFFFFFFFFFFFFFFF61 dated).map (fun t => t.regs.cal) =
      some ⟨0x15#8, 0x15#8, 0x15#8, 0x31#8, 0x02#8, 0x07#8, 0x35#8⟩ := by decide +kernel

set_option maxRecDepth 100000 in
theorem test_setdt_atomic :
    (hostStep 0x002D0003001200050019000307E663 (stateOf (regsOf 0x30 0x59 0x23 0x31 0x12 0x07 0x99 0x80 0x00))).map
      (fun t => t.regs) = some dated.regs := by decide +kernel

set_option maxRecDepth 100000 in
/-- Case (b): no retry, one TICK between the two snapshots: TORN. -/
theorem test_getdt_atomic_torn :
    (hostStep 0x62 (ticking [0, 0, 0, 0, 0, 0, 0, 1] dated)).map responseOf =
      some ([2022#16, 3#16, 25#16, 5#16, 18#16, 3#16, 46#16], 0x80#16) := by decide +kernel

set_option maxRecDepth 100000 in
/-- Case (c): with one retry the second and the third agree. -/
theorem test_getdt_atomic_retry :
    (hostStep 0x62 { dated with
      par := { hasAtomicDT := true, atomicRetryMax := 1, tickNext := .reference, link := .attached }
      ticks := [0, 0, 0, 0, 0, 0, 0, 1] }).map responseOf =
      some ([2022#16, 3#16, 25#16, 5#16, 18#16, 3#16, 46#16], 0#16) := by decide +kernel

/-- Case (d): the option absent. -/
theorem test_atomic_absent :
    (hostStep 0x62 plain).map answerOf = some (0#16, 0x100#16) ∧
    (hostStep 0x002D0003001200050019000307E663 plain).map (fun t => t.regs) = some plain.regs := by decide

/-! ### Without a device (60_exceptions.md R252) -/

/-- A write with no device ends as any other does and stores nothing; an unmapped address is nobody's. -/
theorem test_absent_write :
    (hostStep 0x18008412 alone).map (fun t => (t.regs, t.bus, t.status)) = some (alone.regs, alone.bus, 0#16) ∧
    (hostStep 0x18009212 alone).map (fun t => (t.regs, t.cs, t.clk)) = some (alone.regs, false, false) ∧
    refusalOf (exec (.wrprot 0x92#8 0x18#8) dated) = some .unmappedWrite := by decide

/-- A get with no device, and on a bad bus, ends after eight draws; a write on a bad bus is stored. -/
theorem test_absent_read :
    (hostStep 0x32 alone).map (fun t => (t.regs, t.draws, t.dir)) = some (alone.regs, 8, .input) ∧
    (hostStep 0x32 onBadBus).map (fun t => (t.draws, t.bus.rlat)) = some (8, 0x18#8) ∧
    (hostStep 0x19008412 onBadBus).map (fun t => t.regs.cal.hr) = some 0x19#8 := by decide

/-! ### RAM (program P2, section 2.8) -/

theorem test_setram :
    (hostStep 0xCD001F71 filled).map (fun t => (t.regs.ram, t.regs.wp)) = some ([(0, 0xCD#8), (1, 0x22#8)], 0x80#8) := by
  decide

/-- Writing 0 removes the entry: the canonical form. -/
theorem test_setram_zero : (hostStep 0x00000071 filled).map (fun t => t.regs.ram) = some [(1, 0x22#8)] := by decide

theorem test_getram : (hostStep 0xFFFF70 filled).map answerOf = some (0x22#16, 0#16) := by decide

/-! ### Bus commands (section 2.9) -/

theorem test_bus_write_locked :
    (frameStep 0x1582 dated).map (fun t => t.regs) = some dated.regs ∧
    (frameStep 0xABC0 filled).map (fun t => t.regs) = some filled.regs := by decide

theorem test_bus_write_unlocked :
    (frameStep 0xC580 datedUnlocked).map (fun t => t.regs.cal.sec) = some 0xC5#8 ∧
    (frameStep 0x1582 datedUnlocked).map (fun t => t.regs.cal.min) = some 0x15#8 ∧
    (frameStep 0x1984 datedUnlocked).map (fun t => t.regs.cal.hr) = some 0x19#8 ∧
    (frameStep 0x2686 datedUnlocked).map (fun t => t.regs.cal.day) = some 0x26#8 ∧
    (frameStep 0x0488 datedUnlocked).map (fun t => t.regs.cal.mon) = some 0x04#8 ∧
    (frameStep 0x068A datedUnlocked).map (fun t => t.regs.cal.wday) = some 0x06#8 ∧
    (frameStep 0x238C datedUnlocked).map (fun t => t.regs.cal.yr) = some 0x23#8 ∧
    (frameStep 0x5A90 datedUnlocked).map (fun t => t.regs.ctl) = some 0x5A#8 ∧
    (frameStep 0xABC0 filledUnlocked).map (fun t => t.regs.ram) = some [(0, 0xAB#8), (1, 0x22#8)] := by decide

/-- Only bit 7 of WP is the latch, and 0x8E is always accepted. -/
theorem test_bus_latch :
    (frameStep 0x008E dated).map (fun t => t.regs.wp) = some 0x00#8 ∧
    (frameStep 0x1582 (stateOf (regsOf 0 3 0 0 0 0 0 0x7F 0))).map (fun t => t.regs.cal.min) = some 0x15#8 ∧
    (frameStep 0x1582 (stateOf (regsOf 0 3 0 0 0 0 0 0xFF 0))).map (fun t => t.regs.cal.min) = some 0x03#8 := by decide

theorem test_bus_reads :
    (frameStep 0x0081 garbage).map (fun t => t.bus.rlat) = some 0x7A#8 ∧
    (frameStep 0x0083 garbage).map (fun t => t.bus.rlat) = some 0x60#8 ∧
    (frameStep 0x0085 garbage).map (fun t => t.bus.rlat) = some 0x24#8 ∧
    (frameStep 0x0087 dated).map (fun t => t.bus.rlat) = some 0x25#8 ∧
    (frameStep 0x0089 garbage).map (fun t => t.bus.rlat) = some 0x13#8 ∧
    (frameStep 0x008B garbage).map (fun t => t.bus.rlat) = some 0x08#8 ∧
    (frameStep 0x008D garbage).map (fun t => t.bus.rlat) = some 0xFF#8 ∧
    (frameStep 0x008F garbage).map (fun t => t.bus.rlat) = some 0x80#8 ∧
    (frameStep 0x0091 garbage).map (fun t => t.bus.rlat) = some 0xA5#8 ∧
    (frameStep 0x00C3 filled).map (fun t => t.bus.rlat) = some 0x22#8 := by decide

/-! ### Timekeeping (section 2.9) -/

/-- `59 03 18` ticks to `00 04 18` and `09 03 18` to `10 03 18`; a halted clock does not tick. -/
theorem test_tick :
    (tick (ticking [] (stateOf (regsOf 0x59 0x03 0x18 0x25 0x03 0x05 0x22 0x80 0)))).regs =
      regsOf 0x00 0x04 0x18 0x25 0x03 0x05 0x22 0x80 0 ∧
    (tick (ticking [] (stateOf (regsOf 0x09 0x03 0x18 0x25 0x03 0x05 0x22 0x80 0)))).regs =
      regsOf 0x10 0x03 0x18 0x25 0x03 0x05 0x22 0x80 0 ∧
    tick datedHalted = datedHalted := by decide

/-- `59 59 18` ticks to `00 00 19`, and midnight to `00 00 00`, whatever `next_date` is. -/
theorem test_tick_carry :
    (tick (ticking [] (stateOf (regsOf 0x59 0x59 0x18 0x25 0x03 0x05 0x22 0x80 0)))).regs =
      regsOf 0x00 0x00 0x19 0x25 0x03 0x05 0x22 0x80 0 ∧
    (let c := (tick (ticking [] newYear)).regs.cal; (c.sec, c.min, c.hr)) = (0x00#8, 0x00#8, 0x00#8) := by decide

/-! ### The step -/

/-- An illegal word is refused and the device does not see it (60_exceptions.md R253). -/
theorem test_illegal_step :
    nextOf (step { dated with status := 1#16, inbox := [.host 0x4501#120] }) =
      some { dated with res := Results.zero, status := 0x100#16 } := by decide

/-- A command by lines: the port takes RDREG and the first event raises CS (10_state.md R30). -/
theorem test_by_line :
    nextOf (step { dated with inbox := [.hostByLine 0x8110#120] }) = some { dated with seq := .running (.rdreg 0x81#8) [] } ∧
    nextOf (step { dated with seq := .running (.rdreg 0x81#8) [] }) =
      some { dated with cs := true, seq := .running (.rdreg 0x81#8) [false] } := by decide

/-- The sequencer position before event 25 of the trace of section 2.2, bit 7's clock, and before event 28, the first
sample; the 53rd event is the second frame's first. -/
theorem test_position :
    let d24 := List.replicate 24 false
    let d27 := List.replicate 27 false
    (positionFrame d24, positionByte d24, positionBit d24, positionPhase d24) = (0, 0, 7, 1) ∧
    (positionFrame d27, positionByte d27, positionBit d27, positionPhase d27) = (0, 1, 0, 0) ∧
    positionFrame (List.replicate 52 false) = 1 := by decide

/-- A reset inside a read frame changes no register (70_reset_and_hazards.md R281). -/
theorem test_reset_in_read :
    (nextOf (step { readOpen with seq := .running (.rdreg 0x81#8) [], inbox := [.reset] })).map
      (fun t => (t.regs, t.cs, t.bus.cnt, t.bus.drv)) = some (dated.regs, false, 0, false) := by decide

/-- The reset memory is canonical and reads 0. -/
theorem test_reset_memory :
    Memory.wf State.reset.regs.ram = true ∧ Memory.read State.reset.regs.ram 30 = 0#8 := by decide

/-! ### Witnesses: states that meet the hypotheses of the statements -/

theorem witness_at_rest : AtRest dated ∧ RamSound filled ∧ AtRest filled ∧ dated.seq = .idle := by decide

/-- A device that answers, one on a bad bus and none: the premises about the link. -/
theorem witness_link :
    Ready dated ∧ Listens dated ∧ Listens onBadBus ∧ AtRest onBadBus ∧ onBadBus.par.link = .badBus ∧ AtRest alone ∧
    alone.par.link = .absent ∧ Ready filled ∧ Ready datedHalted ∧ Ready (ticking [0, 1, 0, 0] dated) ∧
    Listens frameBegun ∧ Listens writeBegun ∧ Answers readOpen ∧ Listens (writeCut 0x84#8) := by decide

/-- A host operation with no device, its address as its frame's direction wants it; a mapped read address. -/
theorem witness_without_device :
    (operation alone.par (.rdreg 0x93#8)).isSome = true ∧ bitOf 0x93#8 0 = true ∧ bitOf 0x92#8 0 = false ∧
    (readPlace 0xFD#8).isSome = true ∧ Instr.getdt ≠ .getdtA := by decide

theorem witness_quiet :
    quiet 29 dated = true ∧ quietFrom 2 2 (ticking [3, 1, 0, 0, 5] dated) = true ∧
    quietFrom 0 3 dated = true ∧ quietFrom 8 2 (ticking [0, 0, 0, 1] dated) = true ∧
    quietFrom 1 27 (ticking [7] dated) = true ∧ quietFrom 24 5 (ticking [1, 2, 3] dated) = true := by decide

theorem witness_decode_encode : (Instr.wrRam 30#5 0xAB#8).wellFormed = true := by decide

theorem witness_one_meaning :
    decodeOp 0x8110#120 = .ok (.rdreg 0x81#8) ∧ decodeFrame 0x1884#16 = .ok (.wrHr 0x18#8) ∧
    bitOf (commandByteOf 0x1884#16) 0 = false ∧ decodeFrame 0x7785#16 = .ok .rdHr := by decide

theorem witness_legal_words :
    hostDecode true 0x62#120 = .ok .getdtA ∧ encode .getdtA = .host 0x62#120 ∧ Instr.getdtA.isInternal = false := by decide

theorem witness_address_map :
    (writePlace 0x80#8).isSome = true ∧ (writePlace 0xFC#8).isSome = true ∧ (readPlace 0x81#8).isSome = true ∧
    (readPlace 0xFD#8).isSome = true ∧ bitOf 0xFE#8 0 = false := by decide

theorem witness_step_runs_decoded :
    hostDecode dated.par.hasAtomicDT 0x8110#120 = .ok (.rdreg 0x81#8) ∧ decodeOp 0x02#120 = .ok .rxb ∧
    decodeFrame 0x1884#16 = .ok (.wrHr 0x18#8) ∧ dated.inbox = [] ∧ decodeTableWord 120 0x62 = some .getdtA ∧
    (Instr.getdtA.isOptional = true → dated.par.hasAtomicDT = true) := by decide

theorem witness_illegal_word :
    hostDecode dated.par.hasAtomicDT 0x37#120 = .error .unlistedOpcode ∧
    hostDecode dated.par.hasAtomicDT 0x2D20#120 = .ok (.d2b 45#8) ∧
    (nextOf (exec (.d2b 45#8) dated)).isSome = true ∧
    nextOf (step { dated with inbox := [.hostByLine 0x37#120] }) =
      some { dated with res := Results.zero, status := 0x100#16 } := by decide

theorem witness_in_contract :
    InContract (.rdreg 0x93#8) ∧ InContract (.wrreg 0xFC#8 0#8) ∧ InContract (.wrprot 0x80#8 0#8) ∧
    InContract (.wrRam 30#5 0#8) ∧ InContract (.rdRam 0#5) ∧ InContract .getdtA := by
  simp only [InContract]; decide

theorem witness_out_of_contract :
    bitOf 0x80#8 0 = false ∧ bitOf 0x81#8 0 = true ∧ bitOf 0x92#8 0 = false ∧ writePlace 0x92#8 = none ∧
    writePlace 0xFE#8 = none := by decide

theorem witness_line_by_line :
    let s := { dated with inbox := [.hostByLine 0x2D20#120, .host 0x30#120] }
    s.seq = .idle ∧ hostDecode s.par.hasAtomicDT 0x2D20#120 = .ok (.d2b 45#8) ∧
    (operation s.par (.d2b 45#8)).isSome = true ∧ [Input.host 0x30#120].head? ≠ some .tick ∧
    [Input.host 0x30#120].head? ≠ some .reset := by decide

theorem witness_line_by_line_frame :
    let s := { dated with inbox := [.hostByLine 0x8110#120] }
    s.seq = .idle ∧ hostDecode s.par.hasAtomicDT 0x8110#120 = .ok (.rdreg 0x81#8) ∧
    (operation s.par (.rdreg 0x81#8)).isSome = true ∧ ([] : List Input).head? ≠ some .tick := by decide

/-- RDREG 0x81 taken by lines, at its first line event. -/
def begun : State := { dated with seq := .running (.rdreg 0x81#8) [] }

/-- A running RDREG before its first event, which is inside the contract at 0x81 and outside it at 0x80. -/
theorem witness_one_line_event :
    (∃ e k, (rdregProg 0x81#8).after [] = .event e k) ∧ (∃ r e k, (rdregProg 0x80#8).after [] = .outside r e k) ∧
    (∃ p, operation begun.par (.rdreg 0x81#8) = some p) ∧ begun.seq = .running (.rdreg 0x81#8) [] ∧
    begun.inbox.head? ≠ some .tick ∧ begun.inbox.head? ≠ some .reset ∧
    (match lineEvent (.cs true) begun with | .ok _ => true | .error _ => false) = true :=
  ⟨⟨_, _, rfl⟩, ⟨_, _, _, rfl⟩, ⟨_, rfl⟩, rfl, by decide, by decide, by decide⟩

/-- The last line event of RDREG, its 52nd: the response inside the contract, the refusal outside it. -/
theorem witness_last_line_event :
    (∃ k r, (rdregProg 0x81#8).after (List.replicate 51 false) = .event (.cs false) k ∧ k false = .done r) ∧
    (∃ q k r, (rdregProg 0x80#8).after (List.replicate 51 false) = .outside q (.cs false) k ∧ k false = .refuse r) :=
  ⟨⟨_, _, rfl, rfl⟩, ⟨_, _, _, rfl, rfl⟩⟩

theorem witness_transmit :
    frameBegun.cs = true ∧ frameBegun.clk = false ∧ frameBegun.bus.cnt = 0 ∧ frameBegun.bus.drv = false ∧
    (match (transmitByte 0x8E#8).run frameBegun with | .ok _ => true | .error _ => false) = true ∧
    writeBegun.cs = true ∧ writeBegun.clk = false ∧ writeBegun.bus.cnt = 8 ∧ writeBegun.bus.drv = false ∧
    bitOf writeBegun.bus.cmd 0 = false ∧ writePlace writeBegun.bus.cmd = some (.reg .wp) := by decide

theorem witness_receive :
    readOpen.cs = true ∧ readOpen.clk = false ∧ readOpen.bus.cnt = 8 ∧ readOpen.bus.drv = true ∧
    readOpen.bus.dbit = bitOf readOpen.bus.rlat 0 ∧ bitOf readOpen.bus.cmd 0 = true ∧ dated.bus.drv = false ∧
    (match receiveByte.run readOpen with | .ok _ => true | .error _ => false) = true := by decide

theorem witness_deselected :
    dated.cs = false ∧ LineEvent.clk true ≠ .cs true ∧
    (match lineEvent (.clk true) dated with | .ok _ => true | .error _ => false) = true := by decide

theorem witness_levels :
    AtRest dated ∧ bitOf 0xFD#8 0 = true ∧ writePlace 0xFC#8 = some (.ram 30) ∧ writePlace 0x8E#8 = some (.reg .wp) := by
  decide

theorem witness_tick_moves :
    (readOpen.bus.cnt ≠ 7 ∧ readOpen.bus.cnt ≠ 15) ∧ writeOpen readOpen.bus = false ∧
    writeOpen (writeCut 0x84#8).bus = true := by decide

theorem witness_register_access :
    bitOf 0x93#8 0 = true ∧ readPlace 0x93#8 = none ∧ readPlace 0x8F#8 = some (.reg .wp) ∧
    writePlace 0x90#8 = some (.reg .ctl) ∧ locked dated.regs = true ∧ locked datedUnlocked.regs = false ∧
    writePlace (0xFD#8 - 1#8) = some (.ram 30) := by decide

theorem witness_codec :
    opcodeOf 0x010020#120 = 0x20#8 ∧ upperByteZero 0x010020#120 0 = false ∧ opcodeOf 0x014521#120 = 0x21#8 ∧
    upperByteZero 0x014521#120 0 = false ∧ bcdValid 0x99#8 = true ∧ bcdValid 0x00#8 = true := by decide

theorem witness_set_wraps : (60#16 : Half).toNat % fieldMod .second = (0#16 : Half).toNat % fieldMod .second := by decide

theorem witness_set_then_get :
    (59#16 : Half).toNat ≤ fieldMax .second ∧ 2000 ≤ (2000#16 : Half).toNat ∧ (2099#16 : Half).toNat ≤ 2099 := by decide

theorem witness_halted_readback :
    datedHalted.regs.cal.sec = BitVec.ofNat 8 (0x80 + decimalToBcd 45) ∧
    (stateOf (regsOf 0xD9 0 0 0 0 0 0 0 0)).regs.cal.sec = BitVec.ofNat 8 (0x80 + decimalToBcd 59) := by decide

theorem witness_race :
    (ticking [0, 1, 2] dated).ticks = 0 :: 1 :: 2 :: [] ∧ (ticking [0, 1, 0, 0] dated).ticks = 0 :: 1 :: 0 :: 0 :: [] := by
  decide

theorem witness_tick :
    halted datedHalted.regs = true ∧ halted dated.regs = false ∧ ({ dated with inbox := [.tick] }).inbox = .tick :: [] := by
  decide

theorem witness_reference_tick :
    calendarValid dated.regs.cal = true ∧ calendarValid newYear.regs.cal = true ∧ timeOfDay newYear.regs.cal + 1 = 86400 := by
  decide

theorem witness_snapshot : AtRest dated ∧ (quiet 14 dated = true ∨ halted dated.regs = true) ∧ halted datedHalted.regs = true := by
  decide

/-- The three ways GETDT.A can end: agreement at once, agreement after one retry, no agreement. -/
theorem witness_atomic_ends :
    snapshotAt 1 dated = snapshotAt 0 dated ∧
    (let s := ticking [0, 0, 0, 0, 0, 0, 0, 1] dated
     snapshotAt 1 s ≠ snapshotAt 0 s ∧ snapshotAt 2 s = snapshotAt 1 s) := by decide +kernel

theorem witness_atomic : dated.par.hasAtomicDT = true ∧ plain.par.hasAtomicDT = false := by decide

theorem witness_bus_commands : slotEncodable 30#5 = true ∧ slotEncodable 0#5 = true ∧ RamSound filledUnlocked := by decide

theorem witness_unmapped_frames :
    decodeFrame 0x00FF#16 = .error .unmappedCommand ∧ bitOf (commandByteOf 0x00FF#16) 0 = true ∧
    decodeFrame 0x00FE#16 = .error .unmappedCommand ∧ bitOf (commandByteOf 0x00FE#16) 0 = false ∧
    ({ dated with inbox := [.frame 0x00FE#16] }).seq = .idle := by decide

theorem witness_flags :
    hostDecode true 0x8110#120 = .ok (.rdreg 0x81#8) ∧ raisesFlags (.rdreg 0x81#8) = false ∧
    (nextOf (exec (.rdreg 0x81#8) dated)).isSome = true := by decide

theorem witness_host_writes :
    hostDecode dated.par.hasAtomicDT 0x1242#120 = .ok (.setHr 18#16) ∧
    (nextOf (exec (.setHr 18#16) dated)).isSome = true ∧
    hostDecode dated.par.hasAtomicDT 0x8110#120 = .ok (.rdreg 0x81#8) ∧
    (nextOf (exec (.rdreg 0x81#8) dated)).isSome = true := by decide

theorem witness_control :
    (nextOf (exec (.wrprot 0x8E#8 0#8) dated)).isSome = true ∧ (∀ d, Instr.wrprot 0x8E#8 0#8 ≠ .wrCtl d) ∧
    (∀ v, Instr.wrprot 0x8E#8 0#8 ≠ .wrprot 0x90#8 v) := by decide

theorem witness_parameters : step dated = .next dated := rfl

/-- The invariant holds of a state with registers set, and the step from it answers a next state. -/
theorem witness_sound : Sound filled ∧ step filled = .next filled :=
  ⟨⟨by decide, by decide, by decide, (by decide : AtRest filled)⟩, rfl⟩

theorem witness_reset_between :
    let s := { datedHalted with inbox := [.reset, .tick] }
    AtRest s ∧ s.seq = .idle ∧ s.inbox = .reset :: [.tick] := by decide

theorem witness_reset_during :
    (writeCut 0x84#8).seq = .running (.wrprot 0x84#8 0x18#8) [] ∧ (writeCut 0x84#8).inbox = .reset :: [] ∧
    (writeCut 0x84#8).cs = true ∧ writeOpen (writeCut 0x84#8).bus = true ∧ RamSound (writeCut 0x84#8) ∧
    writePlace (writeCut 0x84#8).bus.cmd = some (.reg .hr) ∧ writePlace (writeCut 0x92#8).bus.cmd = none ∧
    writeOpen readOpen.bus = false := by decide

/-- The edges of the range in which a write frame is open: 8 and 15 are in it, 7 and 16 are not. -/
theorem witness_reset_during_edges :
    writeOpen (writeCutAt 8 0x84#8).bus = true ∧ writeOpen (writeCutAt 15 0x84#8).bus = true ∧
    writeOpen (writeCutAt 7 0x84#8).bus = false ∧ writeOpen (writeCutAt 16 0x84#8).bus = false := by decide

end Sys2Proof.Tests
end

section
/-! PROOFS. The line events of the register accesses, the same in every state and for every address (O58). -/

namespace Sys2Proof.Machine

/-! ### The line events of an operation, whatever the state -/

/-- In every state the controller performs exactly the line events `l` and comes to an answer. -/
def Ctrl.Emits {α : Type} (p : Ctrl α) (l : List LineEvent) : Prop :=
  ∀ s, p.trace s = l ∧ ∃ x, p.finish s = some x

theorem Ctrl.emits_done {α : Type} (a : α) : (Ctrl.done a).Emits [] := fun _ => ⟨rfl, _, rfl⟩

theorem Ctrl.Emits.event {α : Type} {e : LineEvent} {k : Bool → Ctrl α} {l : List LineEvent}
    (h : ∀ b, (k b).Emits l) : (Ctrl.event e k).Emits (e :: l) := fun s => by
  obtain ⟨htrace, x, hx⟩ := h (goOn e s).1 (goOn e s).2
  exact ⟨by rw [Ctrl.trace, htrace], x, hx⟩

theorem Ctrl.Emits.emit {α : Type} {e : LineEvent} {p : Ctrl α} {l : List LineEvent} (h : p.Emits l) :
    (emit e p).Emits (e :: l) :=
  Ctrl.Emits.event fun _ => h

/-- The answer of `p`, then that of `f` of it. -/
theorem Ctrl.finish_andThen {α β : Type} (p : Ctrl α) (f : α → Ctrl β) (s : State) :
    (p.andThen f).finish s = (p.finish s).bind fun x => (f x.1).finish x.2 := by
  induction p generalizing s with
  | done a => rfl
  | refuse r => rfl
  | event e k ih => exact ih _ _
  | outside r e k ih => exact ih _ _

/-- The trace of `p`, which emits `l`, and of what follows it, which emits `m` whatever `p` answered. -/
theorem Ctrl.Emits.trace_andThen {α β : Type} {p : Ctrl α} {f : α → Ctrl β} {l m : List LineEvent} (hp : p.Emits l)
    (hf : ∀ a s, (f a).trace s = m) (s : State) : (p.andThen f).trace s = l ++ m := by
  obtain ⟨htrace, x, hx⟩ := hp s
  rw [Ctrl.trace_andThen, hx, htrace]
  exact congrArg (l ++ ·) (hf _ _)

theorem Ctrl.Emits.andThen {α β : Type} {p : Ctrl α} {f : α → Ctrl β} {l m : List LineEvent} (hp : p.Emits l)
    (hf : ∀ a, (f a).Emits m) : (p.andThen f).Emits (l ++ m) := fun s => by
  obtain ⟨-, x, hx⟩ := hp s
  obtain ⟨-, y, hy⟩ := hf x.1 x.2
  exact ⟨hp.trace_andThen (fun a t => (hf a t).1) s, y, by rw [Ctrl.finish_andThen, hx, Option.bind_some, hy]⟩

/-- Turning the answer into another one adds no line event. -/
theorem Ctrl.trace_andThen_done {α β : Type} (p : Ctrl α) (g : α → β) (s : State) :
    (p.andThen fun a => .done (g a)).trace s = p.trace s := by
  rw [Ctrl.trace_andThen]
  split
  · exact List.append_nil _
  · rfl

/-! ### Bytes and frames (40_serial_bus_driver.md R121, R122; 41_register_access.md R131 to R133) -/

theorem txBits_emits (v : Byte) (is : List Nat) :
    (txBits v is).Emits (is.flatMap fun i => [.dout (bitOf v i), .clk true, .clk false]) := by
  induction is with
  | nil => exact Ctrl.emits_done ()
  | cons i is ih => exact ih.emit.emit.emit

theorem rxBits_emits (r : Byte) (is : List Nat) :
    (rxBits r is).Emits (is.flatMap fun _ => [.sample, .clk true, .clk false]) := by
  induction is generalizing r with
  | nil => exact Ctrl.emits_done r
  | cons i is ih => exact Ctrl.Emits.event fun b => (ih (setBit r i b)).emit.emit

/-- TXB emits the line events of 40_serial_bus_driver.md R121. -/
theorem transmitByte_emits (v : Byte) : (transmitByte v).Emits (txEvents v) := (txBits_emits v lsbFirst).emit

/-- RXB emits the line events of 40_serial_bus_driver.md R122. -/
theorem receiveByte_emits : receiveByte.Emits rxEvents := (rxBits_emits 0#8 lsbFirst).emit

/-- A read frame emits the line events of 41_register_access.md R131, whatever its command byte. -/
theorem readFrame_emits (a : Byte) : (readFrame a).Emits (readEvents a) := by
  rw [readEvents, List.append_assoc]
  exact ((transmitByte_emits a).andThen fun _ => receiveByte_emits.andThen fun r => (Ctrl.emits_done r).emit).emit

/-- A write frame emits the line events of 41_register_access.md R132, whatever its command byte. -/
theorem writeFrame_emits (a v : Byte) : (writeFrame a v).Emits (writeEvents a v) := by
  rw [writeEvents, List.append_assoc]
  exact ((transmitByte_emits a).andThen fun _ => (transmitByte_emits v).andThen fun _ => (Ctrl.emits_done ()).emit).emit

/-- Being outside the contract changes no line event of a write operation (20_memory.md R64). -/
theorem trace_atWriteAddress {α : Type} (a : Byte) (p : Ctrl α) (s : State) : (atWriteAddress a p).trace s = p.trace s := by
  unfold atWriteAddress
  split
  · exact Ctrl.trace_outsideContract _ _ _
  · rfl

theorem readRegister_trace (a : Byte) (s : State) : (readRegister a).trace s = readEvents a := by
  have hframe := (readFrame_emits a s).1
  unfold readRegister
  split
  · exact hframe
  · rw [Ctrl.trace_outsideContract, hframe]

theorem writeRegister_trace (a v : Byte) (s : State) : (writeRegister a v).trace s = writeEvents a v := by
  rw [writeRegister, trace_atWriteAddress, (writeFrame_emits a v s).1]

/-- The unlock and re-lock frames are inside the contract: only the frame between them may leave it. -/
theorem writeProtected_trace (a v : Byte) (s : State) : (writeProtected a v).trace s = protectedEvents a v := by
  have hunlock : (writeRegister (regWriteAddr .wp) wpUnlock).Emits (writeEvents 0x8E#8 0x00#8) := writeFrame_emits _ _
  rw [writeProtected, protectedEvents, List.append_assoc]
  refine hunlock.trace_andThen (fun _ t => ?_) s
  rw [trace_atWriteAddress]
  exact (((writeFrame_emits a v).andThen fun _ => writeFrame_emits (regWriteAddr .wp) wpLock) t).1

end Sys2Proof.Machine

open Sys2Proof Sys2Proof.Machine

/-- Settles O58: the answer an operation gives adds no line event, and neither does its leaving the contract. -/
theorem lineEventsForEveryAddress : Obligations.LineEventsForEveryAddress := by
  refine ⟨fun a s => ?_, fun a v s => ?_, fun a v s => ?_⟩
  · exact (Ctrl.trace_andThen_done _ _ s).trans (readRegister_trace a s)
  · exact (Ctrl.trace_andThen_done _ _ s).trans (writeRegister_trace a v s)
  · exact (Ctrl.trace_andThen_done _ _ s).trans (writeProtected_trace a v s)
end

section
/-! PROOFS. A frame from rest at the transaction level, and that every instruction within its contract completes at rest
(O9). -/

namespace Sys2Proof.Machine

/-- The run of `p` and of what follows it, where `p` runs to an answer. -/
theorem Ctrl.run_andThen_of_run {α β : Type} {p : Ctrl α} (f : α → Ctrl β) {s s' : State} {a : α}
    (h : p.run s = .ok (a, s')) : (p.andThen f).run s = (f a).run s' := by
  rw [Ctrl.run_andThen, h]

/-! ### One frame from rest, as the transaction level has it (47_device_target.md R222) -/

/-- From rest a frame begins with its TICK steps and the rise of CS. -/
theorem run_emit_csRise {α : Type} (p : Ctrl α) {s : State} (h : AtRest s) :
    (emit (.cs true) p).run s = p.run (csRise (frameTicks s)) := by
  simp [emit, Ctrl.run, lineEvent, h.1]

/-- CS falls on a device that is not in the middle of a write. -/
theorem run_emit_csFall {α : Type} (p : Ctrl α) {s : State} (hcs : s.cs = true)
    (h : deviceListens s = false ∨ writeOpen s.bus = false) : (emit (.cs false) p).run s = p.run (endFrame s) := by
  have hopen : (deviceListens s && writeOpen s.bus) = false := Bool.and_eq_false_iff.2 h
  simp [emit, Ctrl.run, lineEvent, csFall, hcs, hopen]

/-- `DevRead` looks at no line. -/
theorem devRead_csRise (s : State) (a : Byte) : devRead (csRise s) a = ((devRead s a).1, csRise (devRead s a).2) := by
  unfold devRead
  split <;> rfl

@[simp] theorem devRead_cs (s : State) (a : Byte) : (devRead s a).2.cs = s.cs := by
  unfold devRead
  split <;> rfl
@[simp] theorem devRead_clk (s : State) (a : Byte) : (devRead s a).2.clk = s.clk := by
  unfold devRead
  split <;> rfl
@[simp] theorem devRead_par (s : State) (a : Byte) : (devRead s a).2.par = s.par := by
  unfold devRead
  split <;> rfl
@[simp] theorem devRead_bus (s : State) (a : Byte) : (devRead s a).2.bus = s.bus := by
  unfold devRead
  split <;> rfl

/-- The bus slave as the rise of CS leaves it on a device that listens (47_device_target.md R212). -/
theorem bus_frameBegun {s : State} (hl : Listens s) :
    (csRise (frameTicks s)).bus = { s.bus with cnt := 0, drv := false } := by
  simpa using slaveIdle_of_listens (s := frameTicks s) (by simpa using hl)

/-- A read frame from rest is one `DevRead`, whatever the lines lead to (47_device_target.md R222). -/
theorem run_readFrame {a : Byte} {s : State} (h : AtRest s) (ha : bitOf a 0 = true) :
    (readFrame a).run s = .ok (memRead a s) := by
  obtain ⟨hcs, hclk⟩ := h
  have hclk' : (csRise (frameTicks s)).clk = false := by simpa using hclk
  rw [readFrame, run_emit_csRise _ ⟨hcs, hclk⟩]
  by_cases hl : s.par.link = .absent
  · have hl' : (csRise (frameTicks s)).par.link = .absent := by simpa using hl
    rw [Ctrl.run_andThen_of_run _ (run_transmit_absent hl' hclk'),
      Ctrl.run_andThen_of_run _ (run_receive_absent (by exact hl') (by exact hclk')),
      run_emit_csFall _ rfl (.inl (by simp [deviceListens, hl]))]
    simp [Ctrl.run, memRead, hl, closeFrame, endFrame, slaveIdle, deviceListens, drawSamples, hcs]
  · rw [Ctrl.run_andThen_of_run _ (run_transmit_read (by simpa using hl) rfl hclk' (by rw [bus_frameBegun hl])
      (by rw [bus_frameBegun hl]) ha), devRead_csRise]
    obtain hl | hl : s.par.link = .attached ∨ s.par.link = .badBus := by
      revert hl; cases s.par.link <;> simp
    · rw [Ctrl.run_andThen_of_run _ (run_receive (by simpa [Answers] using hl) rfl (by simpa using hclk) rfl rfl rfl ha),
        run_emit_csFall _ rfl (.inr rfl)]
      simp [Ctrl.run, memRead, hl, closeFrame, endFrame, slaveIdle, deviceListens, busRead, hcs]
    · rw [Ctrl.run_andThen_of_run _ (run_receive_badBus (by simpa using hl) rfl (by simpa using hclk) rfl rfl ha),
        run_emit_csFall _ rfl (.inr rfl)]
      simp [Ctrl.run, memRead, hl, closeFrame, endFrame, slaveIdle, deviceListens, busRead, drawSamples, hcs]

/-- The data byte of a write frame to a mapped address (47_device_target.md R216, R218). -/
theorem run_transmit_data_mapped {v : Byte} {p : Place} {s : State} (hl : Listens s) (hcs : s.cs = true)
    (hclk : s.clk = false) (hcnt : s.bus.cnt = 8) (hdrv : s.bus.drv = false) (hp : writePlace s.bus.cmd = some p) :
    (transmitByte v).run s =
      .ok ((), { s with
        dir := .output, dout := bitOf v 7, regs := storeAt s.regs p v, bus := { s.bus with wsh := v, cnt := 16 } }) := by
  rw [run_transmit_data hl hcs hclk hcnt hdrv (bitOf_of_writePlace hp), devWrite, hp]

/-- A write frame to a mapped address from rest is one `DevWrite`, or nothing where no device listens
(47_device_target.md R222). -/
theorem run_writeFrame {a v : Byte} {p : Place} {s : State} (h : AtRest s) (hp : writePlace a = some p) :
    (writeFrame a v).run s = .ok ((), memWrite a v p s) := by
  obtain ⟨hcs, hclk⟩ := h
  have hclk' : (csRise (frameTicks s)).clk = false := by simpa using hclk
  have ha : bitOf a 0 = false := bitOf_of_writePlace hp
  rw [writeFrame, run_emit_csRise _ ⟨hcs, hclk⟩]
  by_cases hl : s.par.link = .absent
  · have hl' : (csRise (frameTicks s)).par.link = .absent := by simpa using hl
    rw [Ctrl.run_andThen_of_run _ (run_transmit_absent hl' hclk'),
      Ctrl.run_andThen_of_run _ (run_transmit_absent (by exact hl') (by exact hclk')),
      run_emit_csFall _ rfl (.inl (by simp [deviceListens, hl]))]
    simp [Ctrl.run, memWrite, closeFrame, endFrame, slaveIdle, deviceListens, hl, hcs]
  · have hl' : Listens (csRise (frameTicks s)) := by simpa using hl
    have hdrv : (csRise (frameTicks s)).bus.drv = false := by rw [bus_frameBegun hl]
    rw [Ctrl.run_andThen_of_run _ (run_transmit_write hl' rfl hclk' (by rw [bus_frameBegun hl]) hdrv ha),
      Ctrl.run_andThen_of_run _ (run_transmit_data_mapped (by exact hl') rfl (by exact hclk') rfl (by exact hdrv) hp),
      run_emit_csFall _ rfl (.inr rfl)]
    simp [Ctrl.run, memWrite, closeFrame, endFrame, slaveIdle_of_listens, deviceListens_iff.2 hl, hl, busWrite, hcs]

/-- `readRegister` at a read address from rest (41_register_access.md R131). -/
theorem run_readRegister {a : Byte} {s : State} (h : AtRest s) (ha : bitOf a 0 = true) :
    (readRegister a).run s = .ok (memRead a s) := by
  rw [readRegister, if_pos ha, run_readFrame h ha]

/-- At an even address a write operation is the frames it is made of. -/
theorem atWriteAddress_of_even {α : Type} {a : Byte} (ha : bitOf a 0 = false) (p : Ctrl α) : atWriteAddress a p = p := by
  simp [atWriteAddress, ha]

/-- `writeRegister` at a mapped write address from rest (41_register_access.md R132). -/
theorem run_writeRegister {a v : Byte} {p : Place} {s : State} (h : AtRest s) (hp : writePlace a = some p) :
    (writeRegister a v).run s = .ok ((), memWrite a v p s) := by
  rw [writeRegister, atWriteAddress_of_even (bitOf_of_writePlace hp), run_writeFrame h hp]

/-- A read frame leaves CS and CLK as they were. -/
theorem atRest_memRead (a : Byte) {s : State} (h : AtRest s) : AtRest (memRead a s).2 := by
  unfold memRead
  split <;> simpa [AtRest] using h

/-- A write frame leaves CS and CLK as they were. -/
theorem atRest_memWrite (a v : Byte) (p : Place) {s : State} (h : AtRest s) : AtRest (memWrite a v p s) := by
  unfold memWrite
  split <;> simpa [AtRest] using h

/-- `writeProtected` at a mapped write address from rest: unlock, write, re-lock (41_register_access.md R133). -/
theorem run_writeProtected {a v : Byte} {p : Place} {s : State} (h : AtRest s) (hp : writePlace a = some p) :
    (writeProtected a v).run s = .ok ((), memWriteProtected a v p s) := by
  have hunlocked : AtRest (memWrite (regWriteAddr .wp) wpUnlock (.reg .wp) s) := atRest_memWrite _ _ _ h
  rw [writeProtected, Ctrl.run_andThen_of_run _ (run_writeRegister h rfl),
    atWriteAddress_of_even (bitOf_of_writePlace hp), Ctrl.run_andThen_of_run _ (run_writeFrame hunlocked hp),
    run_writeFrame (atRest_memWrite _ _ _ hunlocked) rfl, memWriteProtected]

/-- A protected write leaves CS and CLK as they were. -/
theorem atRest_memWriteProtected (a v : Byte) (p : Place) {s : State} (h : AtRest s) :
    AtRest (memWriteProtected a v p s) :=
  atRest_memWrite _ _ _ (atRest_memWrite _ _ _ (atRest_memWrite _ _ _ h))

/-! ### Operations that complete -/

/-- Started at rest, the operation runs to an answer and leaves the lines at rest (41_register_access.md R134). -/
def Ctrl.Completes {α : Type} (p : Ctrl α) : Prop :=
  ∀ s, AtRest s → ∃ a t, p.run s = .ok (a, t) ∧ AtRest t

theorem Ctrl.completes_done {α : Type} (a : α) : (Ctrl.done a).Completes := fun s h => ⟨a, s, rfl, h⟩

theorem Ctrl.Completes.andThen {α β : Type} {p : Ctrl α} {f : α → Ctrl β} (hp : p.Completes)
    (hf : ∀ a, (f a).Completes) : (p.andThen f).Completes := fun s h => by
  obtain ⟨a, t, hrun, hrest⟩ := hp s h
  rw [Ctrl.run_andThen_of_run f hrun]
  exact hf a t hrest

theorem Ctrl.Completes.andThen_done {α β : Type} {p : Ctrl α} (hp : p.Completes) (g : α → β) :
    (p.andThen fun a => .done (g a)).Completes :=
  hp.andThen fun a => Ctrl.completes_done (g a)

/-- The command of an operation that completes answers a next state, at rest. -/
theorem Ctrl.Completes.perform {p : Ctrl Response} (hp : p.Completes) {s : State} (h : AtRest s) :
    ∃ t, perform p s = .next t ∧ AtRest t := by
  obtain ⟨r, t, hrun, hrest⟩ := hp s h
  exact ⟨respond r t, perform_eq_next.2 ⟨r, t, hrun, rfl⟩, hrest⟩

/-! #### Bytes with CS low, which the device ignores (47_device_target.md R211) -/

theorem Ctrl.Completes.emit_dir {α : Type} {p : Ctrl α} (hp : p.Completes) (d : Dir) : (emit (.dir d) p).Completes :=
  fun s h => hp { s with dir := d } h

theorem Ctrl.Completes.emit_dout {α : Type} {p : Ctrl α} (hp : p.Completes) (b : Bool) : (emit (.dout b) p).Completes :=
  fun s h => hp { s with dout := b } h

/-- A clock pulse at rest changes nothing. -/
theorem run_clockPulse {α : Type} (p : Ctrl α) {s : State} (h : AtRest s) :
    (emit (.clk true) (emit (.clk false) p)).run s = p.run s := by
  cases s
  obtain ⟨rfl, rfl⟩ := h
  rfl

theorem Ctrl.Completes.clockPulse {α : Type} {p : Ctrl α} (hp : p.Completes) :
    (emit (.clk true) (emit (.clk false) p)).Completes := fun s h => by
  rw [run_clockPulse p h]
  exact hp s h

theorem Ctrl.Completes.sample {α : Type} {k : Bool → Ctrl α} (hk : ∀ b, (k b).Completes) :
    (Ctrl.event .sample k).Completes := fun s h => by
  have hrest : AtRest (readData s).2 := by
    obtain hs | hs := readData_snd s <;> rw [hs] <;> exact h
  exact hk _ _ hrest

theorem txBits_completes (v : Byte) (is : List Nat) : (txBits v is).Completes := by
  induction is with
  | nil => exact Ctrl.completes_done ()
  | cons i is ih => exact ih.clockPulse.emit_dout _

theorem rxBits_completes (r : Byte) (is : List Nat) : (rxBits r is).Completes := by
  induction is generalizing r with
  | nil => exact Ctrl.completes_done r
  | cons i is ih => exact Ctrl.Completes.sample fun b => (ih (setBit r i b)).clockPulse

theorem transmitByte_completes (v : Byte) : (transmitByte v).Completes := (txBits_completes v lsbFirst).emit_dir _

theorem receiveByte_completes : receiveByte.Completes := (rxBits_completes 0#8 lsbFirst).emit_dir _

/-! #### Register accesses and what is made of them -/

theorem readRegister_completes {a : Byte} (ha : bitOf a 0 = true) : (readRegister a).Completes := fun _ h =>
  ⟨_, _, run_readRegister h ha, atRest_memRead a h⟩

theorem writeRegister_completes {a v : Byte} {p : Place} (hp : writePlace a = some p) : (writeRegister a v).Completes :=
  fun _ h => ⟨_, _, run_writeRegister h hp, atRest_memWrite a v p h⟩

theorem writeProtected_completes {a v : Byte} {p : Place} (hp : writePlace a = some p) :
    (writeProtected a v).Completes :=
  fun _ h => ⟨_, _, run_writeProtected h hp, atRest_memWriteProtected a v p h⟩

/-- The read address of a named register is odd (20_memory.md R63). -/
theorem bitOf_regReadAddr (r : Reg) : bitOf (regReadAddr r) 0 = true := by cases r <;> rfl

/-- The write address of a named register names it (10_state.md R40). -/
theorem writePlace_regWriteAddr (r : Reg) : writePlace (regWriteAddr r) = some (.reg r) := by cases r <;> rfl

/-- The read address of a RAM slot is odd (46_ram.md R200). -/
theorem bitOf_ramReadAddr (slot : Half) : bitOf (ramReadAddr slot) 0 = true := by
  have hodd : ∀ n < 31, bitOf (BitVec.ofNat 8 (0xC0 + n * 2 + 1)) 0 = true := by decide
  exact hodd _ (Nat.mod_lt _ (by decide))

/-- The write address of a RAM slot names the slot (46_ram.md R200). -/
theorem writePlace_ramWriteAddr (slot : Half) : writePlace (ramWriteAddr slot) = some (.ram (ramSlot slot)) := by
  have hplace : ∀ n < 31, writePlace (BitVec.ofNat 8 (0xC0 + n * 2)) = some (.ram n) := by decide
  exact hplace _ (Nat.mod_lt _ (by decide))

theorem getField_completes (f : Field) : (getField f).Completes :=
  (readRegister_completes (bitOf_regReadAddr _)).andThen_done _

theorem setField_completes (f : Field) (v : Half) : (setField f v).Completes :=
  writeProtected_completes (writePlace_regWriteAddr _)

theorem startOscillator_completes : startOscillator.Completes :=
  (readRegister_completes (bitOf_regReadAddr _)).andThen fun _ => writeProtected_completes (writePlace_regWriteAddr _)

theorem stopOscillator_completes : stopOscillator.Completes :=
  (readRegister_completes (bitOf_regReadAddr _)).andThen fun _ => writeProtected_completes (writePlace_regWriteAddr _)

theorem getDateTime_completes : getDateTime.Completes :=
  (getField_completes _).andThen fun _ => (getField_completes _).andThen fun _ => (getField_completes _).andThen fun _ =>
  (getField_completes _).andThen fun _ => (getField_completes _).andThen fun _ => (getField_completes _).andThen fun _ =>
  (getField_completes _).andThen_done _

theorem setDateTime_completes (y mo d w h mi s : Half) : (setDateTime y mo d w h mi s).Completes :=
  (setField_completes _ _).andThen fun _ => (setField_completes _ _).andThen fun _ =>
  (setField_completes _ _).andThen fun _ => (setField_completes _ _).andThen fun _ =>
  (setField_completes _ _).andThen fun _ => (setField_completes _ _).andThen fun _ => setField_completes _ _

/-- The loop of GETDT.A ends: its retries are bounded (45_snapshot.md R193). -/
theorem rereadUntilEqual_completes (n : Nat) (x : Snapshot) : (rereadUntilEqual n x).Completes := by
  induction n generalizing x with
  | zero => exact getDateTime_completes.andThen_done _
  | succ n ih =>
    refine getDateTime_completes.andThen fun y => ?_
    split
    · exact Ctrl.completes_done _
    · exact ih y

theorem getdtAProg_completes (par : Params) : (getdtAProg par).Completes := by
  unfold getdtAProg
  split
  · exact getDateTime_completes.andThen (rereadUntilEqual_completes _)
  · exact Ctrl.completes_done _

theorem setdtAProg_completes (par : Params) (y mo d w h mi s : Half) : (setdtAProg par y mo d w h mi s).Completes := by
  unfold setdtAProg
  split
  · exact stopOscillator_completes.andThen fun _ => (setDateTime_completes _ _ _ _ _ _ _).andThen fun _ =>
      startOscillator_completes.andThen_done _
  · exact Ctrl.completes_done _

/-! #### Every instruction -/

/-- Every operation of the controller completes within its contract. -/
theorem operation_completes {par : Params} {i : Instr} {p : Ctrl Response} (hp : operation par i = some p)
    (hc : InContract i) : p.Completes := by
  cases i <;> cases hp
  case txb => exact (transmitByte_completes _).andThen_done _
  case rxb => exact receiveByte_completes.andThen_done _
  case rdreg => exact (readRegister_completes hc).andThen_done _
  case wrreg =>
    obtain ⟨_, hplace⟩ := Option.isSome_iff_exists.1 hc
    exact (writeRegister_completes hplace).andThen_done _
  case wrprot =>
    obtain ⟨_, hplace⟩ := Option.isSome_iff_exists.1 hc
    exact (writeProtected_completes hplace).andThen_done _
  case d2b | b2d => exact Ctrl.completes_done _
  case getSec | getMin | getHr | getDay | getMon | getWday | getYr => exact (getField_completes _).andThen_done _
  case setSec | setMin | setHr | setDay | setMon | setWday | setYr => exact (setField_completes _ _).andThen_done _
  case start => exact startOscillator_completes.andThen_done _
  case stop => exact stopOscillator_completes.andThen_done _
  case getdt => exact getDateTime_completes.andThen_done _
  case setdt => exact (setDateTime_completes _ _ _ _ _ _ _).andThen_done _
  case getdtA => exact getdtAProg_completes _
  case setdtA => exact setdtAProg_completes _ _ _ _ _ _ _ _
  case getram => exact (readRegister_completes (bitOf_ramReadAddr _)).andThen_done _
  case setram => exact (writeProtected_completes (writePlace_ramWriteAddr _)).andThen_done _

/-- An operation of the controller is executed by running its line events. -/
theorem exec_of_operation {i : Instr} {p : Ctrl Response} {s : State} (hp : operation s.par i = some p) :
    exec i s = perform p s := by
  cases i <;> cases hp <;> rfl

/-- A bus command within its contract moves no line of the controller. -/
theorem exec_busCommand {i : Instr} {s : State} (hp : operation s.par i = none) (hc : InContract i) :
    ∃ t, exec i s = .next t ∧ t.cs = s.cs ∧ t.clk = s.clk := by
  cases i <;> cases hp
  case wrRam => exact ⟨_, if_pos hc, rfl, rfl⟩
  case rdRam => exact ⟨_, if_pos hc, rfl, rfl⟩
  all_goals exact ⟨_, rfl, rfl, rfl⟩

end Sys2Proof.Machine

open Sys2Proof Sys2Proof.Machine

/-- Settles O9: an operation of the controller completes since each of its frames does, and a bus command moves no line. -/
theorem inContractCompletes : Obligations.InContractCompletes := by
  intro i s hrest hc
  cases hp : operation s.par i with
  | some p =>
    rw [exec_of_operation hp]
    exact (operation_completes hp hc).perform hrest
  | none =>
    obtain ⟨t, hexec, hcs, hclk⟩ := exec_busCommand hp hc
    exact ⟨t, hexec, hcs.trans hrest.1, hclk.trans hrest.2⟩
end

section
/-! PROOFS. What a line event can do to the machine: the inversion of the device's reactions, and what every line event
keeps. -/

namespace Sys2Proof.Machine

/-! ### What each reaction of the device can do (47_device_target.md part 1) -/

/-- A register file after a write frame with command byte `a`, whole or cut: as before, or with the place that `a` names
holding another byte (47_device_target.md R219, R221). -/
def WrittenAt (a : Byte) (d d' : RegFile) : Prop :=
  d' = d ∨ ∃ p v, writePlace a = some p ∧ d' = placeWrite d p v

theorem WrittenAt.wf {a : Byte} {d d' : RegFile} (h : WrittenAt a d d') (hw : Memory.wf d.ram = true) :
    Memory.wf d'.ram = true := by
  obtain rfl | ⟨p, v, hp, rfl⟩ := h
  · exact hw
  · cases p with
    | reg r => simpa [placeWrite] using hw
    | ram n => exact Memory.wf_write hw v (writePlace_ram_lt hp)

theorem writtenAt_storeAt {a : Byte} {p : Place} (hp : writePlace a = some p) (d : RegFile) (v : Byte) :
    WrittenAt a d (storeAt d p v) := by
  unfold storeAt
  split
  · exact .inr ⟨p, v, hp, rfl⟩
  · exact .inl rfl

/-- The fall of CS ends the frame, and may leave any byte in the place that an open write frame addresses
(47_device_target.md R212, R219). -/
theorem csFall_eq {s t : State} (h : csFall s = .ok t) :
    ∃ d n, t = endFrame { s with regs := d, draws := n } ∧ WrittenAt s.bus.cmd s.regs d := by
  unfold csFall at h
  split at h
  · unfold cutWrite at h
    cases hp : writePlace s.bus.cmd with
    | none => simp [hp] at h
    | some p =>
      simp only [hp, drawByte] at h
      cases h
      exact ⟨_, _, rfl, .inr ⟨p, _, hp, rfl⟩⟩
  · cases h
    exact ⟨s.regs, s.draws, rfl, .inl rfl⟩

/-- A read of DATA changes the count of draws at most (10_state.md R25). -/
theorem readData_eq (s : State) : ∃ b n, readData s = (b, { s with draws := n }) := by
  obtain h | h := readData_snd s
  · exact ⟨_, s.draws, Prod.ext rfl h⟩
  · exact ⟨_, _, Prod.ext rfl h⟩

/-- `DevRead` changes the count of draws at most (47_device_target.md R220, R224). -/
theorem devRead_eq (s : State) (a : Byte) : ∃ v n, devRead s a = (v, { s with draws := n }) := by
  obtain ⟨-, h⟩ | ⟨-, h⟩ := devRead_snd s a
  · exact ⟨_, s.draws, Prod.ext rfl h⟩
  · exact ⟨_, _, h⟩

/-- The 8th rising edge latches the byte to send or clears the byte to receive (47_device_target.md R214, R217). -/
theorem commandDone_eq (s : State) : ∃ b n, commandDone s = { s with bus := b, draws := n } ∧ b.cnt = s.bus.cnt := by
  obtain ⟨v, n, hread⟩ := devRead_eq s s.bus.cmd
  simp only [commandDone, hread]
  split
  · exact ⟨_, n, rfl, rfl⟩
  · exact ⟨_, s.draws, rfl, rfl⟩

/-- A rising edge in the command byte is counted and stores nothing (47_device_target.md R213, R214). -/
theorem captureCommand_eq (s : State) : ∃ b n,
    captureCommand s = { s with bus := b, draws := n } ∧ b.cnt = s.bus.cnt + 1 := by
  obtain ⟨l, n, hread⟩ := readData_eq s
  simp only [captureCommand, hread]
  split
  · obtain ⟨b, m, hdone, hcnt⟩ := commandDone_eq { s with
      bus := { s.bus with cmd := setBit s.bus.cmd s.bus.cnt l, cnt := s.bus.cnt + 1 }, draws := n }
    exact ⟨b, m, hdone, hcnt⟩
  · exact ⟨_, n, rfl, rfl⟩

/-- A rising edge in the data byte of a write is counted, and the last one may store it (47_device_target.md R216,
R218). -/
theorem captureData_eq {s t : State} (h : captureData s = .ok t) : ∃ b n d,
    t = { s with bus := b, draws := n, regs := d } ∧ b.cnt = s.bus.cnt + 1 ∧ WrittenAt s.bus.cmd s.regs d := by
  obtain ⟨l, n, hread⟩ := readData_eq s
  simp only [captureData, hread] at h
  split at h
  · obtain ⟨p, hp, hstore⟩ | ⟨-, hunmapped⟩ := devWrite_cases s.regs s.bus.cmd (setBit s.bus.wsh (s.bus.cnt - 8) l)
    · rw [hstore] at h
      cases h
      exact ⟨_, n, _, rfl, rfl, writtenAt_storeAt hp _ _⟩
    · rw [hunmapped] at h
      cases h
  · cases h
    exact ⟨_, n, s.regs, rfl, rfl, .inl rfl⟩

/-- A bus slave after a clock edge: as before, or that of a selected device, with 16 edges counted at most
(47_device_target.md R211, R219). -/
def ClockedFrom (s : State) (b : BusSlave) : Prop :=
  b = s.bus ∨ s.cs = true ∧ Listens s ∧ (s.bus.cnt ≤ 16 → b.cnt ≤ 16)

theorem clkRise_eq {s t : State} (h : clkRise s = .ok t) : ∃ b n d,
    t = { s with bus := b, draws := n, regs := d } ∧ WrittenAt s.bus.cmd s.regs d ∧ ClockedFrom s b := by
  unfold clkRise at h
  split at h
  · cases h
    exact ⟨s.bus, s.draws, s.regs, rfl, .inl rfl, .inl rfl⟩
  · next hsel =>
    obtain ⟨hcs, hl⟩ : s.cs = true ∧ Listens s := by simpa [deviceListens_iff] using hsel
    split at h
    · obtain ⟨b, n, heq, hcnt⟩ := captureCommand_eq s
      cases h
      exact ⟨b, n, s.regs, heq, .inl rfl, .inr ⟨hcs, hl, by omega⟩⟩
    · split at h
      · split at h
        · cases h
          exact ⟨_, s.draws, s.regs, rfl, .inl rfl, .inr ⟨hcs, hl, fun _ => by simp only; omega⟩⟩
        · obtain ⟨b, n, d, heq, hcnt, hd⟩ := captureData_eq h
          exact ⟨b, n, d, heq, hd, .inr ⟨hcs, hl, by omega⟩⟩
      · cases h
        exact ⟨s.bus, s.draws, s.regs, rfl, .inl rfl, .inl rfl⟩

theorem clkFall_eq (s : State) : ∃ b, clkFall s = { s with bus := b } ∧ ClockedFrom s b := by
  unfold clkFall
  split
  · exact ⟨s.bus, rfl, .inl rfl⟩
  · next hsel =>
    obtain ⟨hcs, hl⟩ : s.cs = true ∧ Listens s := by
      simp only [Bool.or_eq_true, not_or, Bool.not_eq_true', Bool.not_eq_false, deviceListens_iff] at hsel
      obtain ⟨⟨hselected, -⟩, -⟩ := hsel
      exact hselected
    split
    · exact ⟨_, rfl, .inr ⟨hcs, hl, id⟩⟩
    · exact ⟨_, rfl, .inr ⟨hcs, hl, id⟩⟩

/-! ### What a line event can do -/

/-- What a line event `e` from `s` may have done in `t`: it moved CS and CLK as it says, the device wrote the place its
command byte names, if any (the calendar may have ticked before), and its bus slave is idle at either edge of CS. -/
structure LineEffect (e : LineEvent) (s t : State) : Prop where
  environment : SameEnvironment s t
  status : t.status = s.status
  lines : (t.cs, t.clk) = linesAfter e (s.cs, s.clk)
  regs : ∃ c, WrittenAt s.bus.cmd { s.regs with cal := c } t.regs
  bus : t.bus = slaveIdle s ∨ t.cs = s.cs ∧ ClockedFrom s t.bus

theorem LineEffect.seq {e : LineEvent} {s t : State} (h : LineEffect e s t) : t.seq = s.seq := by
  obtain ⟨hseq, -, -⟩ := h.environment
  exact hseq

theorem LineEffect.par {e : LineEvent} {s t : State} (h : LineEffect e s t) : t.par = s.par := by
  obtain ⟨-, hpar, -⟩ := h.environment
  exact hpar

/-- A line event that reaches no device moves the controller's lines only. -/
theorem LineEffect.of_lines {e : LineEvent} {s : State} {c k o : Bool} {d : Dir} {n : Nat}
    (hlines : (c, k) = linesAfter e (s.cs, s.clk)) (hcs : c = s.cs) :
    LineEffect e s { s with cs := c, clk := k, dir := d, dout := o, draws := n } :=
  ⟨⟨rfl, rfl, rfl⟩, rfl, hlines, ⟨s.regs.cal, .inl rfl⟩, .inr ⟨hcs, .inl rfl⟩⟩

theorem lineEffect_cs_true {s : State} : LineEffect (.cs true) s (if s.cs then s else csRise (frameTicks s)) := by
  split
  · next hcs => exact .of_lines (by simp [linesAfter, hcs]) rfl
  · obtain ⟨c, hticks⟩ := frameTicks_eq s
    rw [hticks]
    exact ⟨⟨rfl, rfl, rfl⟩, rfl, rfl, ⟨c, .inl rfl⟩, .inl rfl⟩

theorem lineEffect_csFall {s t : State} (h : csFall s = .ok t) : LineEffect (.cs false) s t := by
  obtain ⟨d, n, rfl, hd⟩ := csFall_eq h
  exact ⟨⟨rfl, rfl, rfl⟩, rfl, rfl, ⟨s.regs.cal, hd⟩, .inl rfl⟩

theorem lineEffect_cs_false_of_low {s : State} (hcs : ¬ s.cs = true) : LineEffect (.cs false) s s :=
  .of_lines (by simp [linesAfter, hcs]) rfl

theorem lineEffect_clkRise {s t : State} (h : clkRise s = .ok t) : LineEffect (.clk true) s { t with clk := true } := by
  obtain ⟨b, n, d, rfl, hd, hb⟩ := clkRise_eq h
  exact ⟨⟨rfl, rfl, rfl⟩, rfl, rfl, ⟨s.regs.cal, hd⟩, .inr ⟨rfl, hb⟩⟩

theorem lineEffect_clk_false {s : State} :
    LineEffect (.clk false) s (if s.clk then { clkFall s with clk := false } else s) := by
  split
  · obtain ⟨b, hfall, hb⟩ := clkFall_eq s
    rw [hfall]
    exact ⟨⟨rfl, rfl, rfl⟩, rfl, rfl, ⟨s.regs.cal, .inl rfl⟩, .inr ⟨rfl, hb⟩⟩
  · next hclk => exact .of_lines (by simp [linesAfter, hclk]) rfl

/-- Everything a line event can do. -/
theorem lineEffect_of_lineEvent {e : LineEvent} {s t : State} {l : Bool} (h : lineEvent e s = .ok (l, t)) :
    LineEffect e s t := by
  cases e with
  | cs b =>
    cases b with
    | true =>
      cases h
      exact lineEffect_cs_true
    | false =>
      simp only [lineEvent] at h
      split at h
      · cases hfall : csFall s with
        | error r => simp [hfall] at h
        | ok u =>
          rw [hfall] at h
          cases h
          exact lineEffect_csFall hfall
      · next hcs =>
        cases h
        exact lineEffect_cs_false_of_low hcs
  | clk b =>
    cases b with
    | true =>
      simp only [lineEvent] at h
      split at h
      · next hclk =>
        cases h
        exact .of_lines (by simp [linesAfter, hclk]) rfl
      · cases hrise : clkRise s with
        | error r => simp [hrise] at h
        | ok u =>
          rw [hrise] at h
          cases h
          exact lineEffect_clkRise hrise
    | false =>
      cases h
      exact lineEffect_clk_false
  | dir d =>
    cases h
    exact .of_lines rfl rfl
  | dout b =>
    cases h
    exact .of_lines rfl rfl
  | sample =>
    obtain ⟨b, n, hread⟩ := readData_eq s
    rw [lineEvent, hread] at h
    cases h
    exact .of_lines rfl rfl

/-- A reset is the fall of CS, if it was high, and then the reset levels (70_reset_and_hazards.md R281). -/
theorem applyReset_eq {s t : State} (h : applyReset s = .ok t) :
    ∃ u, LineEffect (.cs false) s u ∧ t = resetController u := by
  unfold applyReset at h
  split at h
  · cases hfall : csFall s with
    | error r => simp [hfall] at h
    | ok u =>
      rw [hfall] at h
      cases h
      exact ⟨u, lineEffect_csFall hfall, rfl⟩
  · next hcs =>
    cases h
    exact ⟨s, lineEffect_cs_false_of_low hcs, rfl⟩

/-! ### What every line event keeps -/

theorem LineEffect.ramSound {e : LineEvent} {s t : State} (h : LineEffect e s t) (hs : RamSound s) : RamSound t := by
  obtain ⟨c, hregs⟩ := h.regs
  exact hregs.wf hs

/-- The bus slave where no frame is open. -/
theorem slaveIdle_idle {s : State} (hs : BusSound s) : (slaveIdle s).cnt = 0 ∧ (slaveIdle s).drv = false := by
  by_cases hl : s.par.link = .absent
  · rw [slaveIdle_of_absent hl]
    exact hs.1 (.inr hl)
  · rw [slaveIdle_of_listens hl]
    exact ⟨rfl, rfl⟩

theorem LineEffect.busSound {e : LineEvent} {s t : State} (h : LineEffect e s t) (hs : BusSound s) : BusSound t := by
  obtain hidle | ⟨hcs, hsame | ⟨hsel, hl, hcnt⟩⟩ := h.bus
  · have hslave := slaveIdle_idle hs
    rw [← hidle] at hslave
    exact ⟨fun _ => hslave, by omega⟩
  · rw [BusSound, hcs, h.par, hsame]
    exact hs
  · rw [BusSound, hcs, h.par]
    exact ⟨by simp [hsel, hl], hcnt hs.2⟩

/-- A run that begins with a line event is that event and then the rest. -/
theorem Ctrl.run_event {α : Type} {e : LineEvent} {k : Bool → Ctrl α} {s : State} {x : α × State}
    (h : (Ctrl.event e k).run s = .ok x) : ∃ b u, lineEvent e s = .ok (b, u) ∧ (k b).run u = .ok x := by
  rw [Ctrl.run] at h
  cases he : lineEvent e s with
  | error r => simp [he] at h
  | ok y =>
    rw [he] at h
    exact ⟨y.1, y.2, rfl, h⟩

/-- What every line event keeps, a run of line events keeps. -/
theorem Ctrl.run_keeps {α : Type} {I : State → Prop} (hI : ∀ e s t, LineEffect e s t → I s → I t) {p : Ctrl α}
    {s t : State} {a : α} (hrun : p.run s = .ok (a, t)) (hs : I s) : I t := by
  induction p generalizing s with
  | done a =>
    cases hrun
    exact hs
  | refuse r => cases hrun
  | outside r e k => cases hrun
  | event e k ih =>
    obtain ⟨b, u, he, hrest⟩ := Ctrl.run_event hrun
    exact ih b hrest (hI e s u (lineEffect_of_lineEvent he) hs)

/-- A run of line events leaves the environment and the sequencer alone. -/
theorem Ctrl.run_sameEnvironment {α : Type} {p : Ctrl α} {s t : State} {a : α} (h : p.run s = .ok (a, t)) :
    SameEnvironment s t := by
  refine Ctrl.run_keeps (I := SameEnvironment s) (fun e u v he ⟨hseq, hpar, hinbox⟩ => ?_) h ⟨rfl, rfl, rfl⟩
  obtain ⟨hseq', hpar', hinbox'⟩ := he.environment
  exact ⟨hseq'.trans hseq, hpar'.trans hpar, hinbox'.trans hinbox⟩

end Sys2Proof.Machine
end

section
/-! PROOFS. What the controller's operations are made of, and what follows for where they bring the lines, how they end
and which STATUS they answer. -/

namespace Sys2Proof.Machine

/-! ### How an operation may end -/

/-- Nothing but the refusal `r` is left to come, after line events outside the contract (20_memory.md R64). -/
def Ctrl.EndsRefused {α : Type} (r : Refusal) : Ctrl α → Prop
  | .done _ => False
  | .refuse r' => r' = r
  | .event _ _ => False
  | .outside r' _ k => r' = r ∧ ∀ b, (k b).EndsRefused r

/-- From the levels `l` of CS and CLK every answer comes with the levels `m`; once the operation is outside the contract
no answer comes any more, and it is refused for the reason it left the contract for. -/
def Ctrl.Leads {α : Type} : Ctrl α → Bool × Bool → Bool × Bool → Prop
  | .done _, l, m => l = m
  | .refuse _, _, _ => True
  | .event e k, l, m => ∀ b, (k b).Leads (linesAfter e l) m
  | .outside r _ k, _, _ => ∀ b, (k b).EndsRefused r

theorem Ctrl.EndsRefused.andThen {α β : Type} {r : Refusal} {p : Ctrl α} (h : p.EndsRefused r) (f : α → Ctrl β) :
    (p.andThen f).EndsRefused r := by
  induction p with
  | done a => exact h.elim
  | refuse r' => exact h
  | event e k _ => exact h.elim
  | outside r' e k ih => exact ⟨h.1, fun b => ih b (h.2 b)⟩

theorem Ctrl.endsRefused_outsideContract {α β : Type} (r : Refusal) (p : Ctrl α) :
    (p.outsideContract r : Ctrl β).EndsRefused r := by
  induction p with
  | done a => rfl
  | refuse r' => rfl
  | event e k ih => exact ⟨rfl, ih⟩
  | outside r' e k ih => exact ⟨rfl, ih⟩

theorem Ctrl.EndsRefused.endsAtRest {α : Type} {r : Refusal} {p : Ctrl α} (h : p.EndsRefused r) (l : Bool × Bool) :
    p.endsAtRest l := by
  induction p generalizing l with
  | done a => exact h.elim
  | refuse r' => trivial
  | event e k _ => exact h.elim
  | outside r' e k ih => exact fun b => ih b (h.2 b) _

/-- An operation that leads to rest ends there, however the sampled levels fall. -/
theorem Ctrl.Leads.endsAtRest {α : Type} {p : Ctrl α} {l : Bool × Bool} (h : p.Leads l (false, false)) :
    p.endsAtRest l := by
  induction p generalizing l with
  | done a => exact h
  | refuse r => trivial
  | event e k ih => exact fun b => ih b (h b)
  | outside r e k _ => exact fun b => (h b).endsAtRest _

/-- Where the lines are when a run has ended. -/
theorem Ctrl.Leads.run {α : Type} {p : Ctrl α} {s t : State} {m : Bool × Bool} {a : α}
    (h : p.Leads (s.cs, s.clk) m) (hrun : p.run s = .ok (a, t)) : (t.cs, t.clk) = m := by
  induction p generalizing s with
  | done a =>
    cases hrun
    exact h
  | refuse r => cases hrun
  | outside r e k => cases hrun
  | event e k ih =>
    obtain ⟨b, u, he, hrest⟩ := Ctrl.run_event hrun
    refine ih b ?_ hrest
    rw [(lineEffect_of_lineEvent he).lines]
    exact h b

/-! ### Where each operation brings the lines -/

theorem Ctrl.Leads.emit {α : Type} {e : LineEvent} {p : Ctrl α} {l m : Bool × Bool} (h : p.Leads (linesAfter e l) m) :
    (emit e p).Leads l m := fun _ => h

theorem Ctrl.Leads.andThen {α β : Type} {p : Ctrl α} {f : α → Ctrl β} {l m n : Bool × Bool} (hp : p.Leads l m)
    (hf : ∀ a, (f a).Leads m n) : (p.andThen f).Leads l n := by
  induction p generalizing l with
  | done a =>
    cases hp
    exact hf a
  | refuse r => trivial
  | event e k ih => exact fun b => ih b (hp b)
  | outside r e k _ => exact fun b => (hp b).andThen f

theorem Ctrl.leads_outsideContract {α β : Type} (r : Refusal) (p : Ctrl α) {l m : Bool × Bool} (h : p.Leads l m) :
    (p.outsideContract r : Ctrl β).Leads l m := by
  cases p with
  | done a => trivial
  | refuse r' => trivial
  | event e k => exact fun b => Ctrl.endsRefused_outsideContract r (k b)
  | outside r' e k => exact fun b => Ctrl.endsRefused_outsideContract r (k b)

/-- A byte leaves CS where it is and CLK low (40_serial_bus_driver.md R121). -/
theorem transmitByte_leads (v : Byte) (c : Bool) : (transmitByte v).Leads (c, false) (c, false) := by
  have hbits : ∀ is, (txBits v is).Leads (c, false) (c, false) := by
    intro is
    induction is with
    | nil => rfl
    | cons i is ih => exact ih.emit.emit.emit
  exact (hbits lsbFirst).emit

/-- A byte leaves CS where it is and CLK low (40_serial_bus_driver.md R122). -/
theorem receiveByte_leads (c : Bool) : receiveByte.Leads (c, false) (c, false) := by
  have hbits : ∀ is r, (rxBits r is).Leads (c, false) (c, false) := by
    intro is
    induction is with
    | nil => exact fun _ => rfl
    | cons i is ih => exact fun r b => (ih (setBit r i b)).emit.emit
  exact (hbits lsbFirst 0#8).emit

/-- The levels of CS and CLK between operations. -/
abbrev restLines : Bool × Bool := (false, false)

theorem readFrame_leads (a : Byte) : (readFrame a).Leads restLines restLines :=
  .emit <| (transmitByte_leads a true).andThen fun _ => (receiveByte_leads true).andThen fun _ => .emit rfl

theorem writeFrame_leads (a v : Byte) : (writeFrame a v).Leads restLines restLines :=
  .emit <| (transmitByte_leads a true).andThen fun _ => (transmitByte_leads v true).andThen fun _ => .emit rfl

theorem atWriteAddress_leads {α : Type} (a : Byte) {p : Ctrl α} {l m : Bool × Bool} (h : p.Leads l m) :
    (atWriteAddress a p).Leads l m := by
  unfold atWriteAddress
  split
  · exact Ctrl.leads_outsideContract _ p h
  · exact h

theorem readRegister_leads (a : Byte) : (readRegister a).Leads restLines restLines := by
  unfold readRegister
  split
  · exact readFrame_leads a
  · exact Ctrl.leads_outsideContract _ _ (readFrame_leads a)

theorem writeRegister_leads (a v : Byte) : (writeRegister a v).Leads restLines restLines :=
  atWriteAddress_leads a (writeFrame_leads a v)

theorem writeProtected_leads (a v : Byte) : (writeProtected a v).Leads restLines restLines :=
  (writeRegister_leads _ _).andThen fun _ => atWriteAddress_leads a <|
    (writeFrame_leads a v).andThen fun _ => writeFrame_leads _ _

/-! ### What operations are made of -/

/-- Made of bytes and register accesses, its writes at addresses that `A` allows (30_encoding.md R106). The unlocking and
the locking of WRPROT count with it. -/
inductive Ctrl.OfAccesses (A : Byte → Prop) : {α : Type} → Ctrl α → Prop
  | done {α : Type} (a : α) : OfAccesses A (.done a)
  | andThen {α β : Type} {p : Ctrl α} {f : α → Ctrl β} (hp : OfAccesses A p) (hf : ∀ a, OfAccesses A (f a)) :
      OfAccesses A (p.andThen f)
  | transmit (v : Byte) : OfAccesses A (transmitByte v)
  | receive : OfAccesses A receiveByte
  | read (a : Byte) : OfAccesses A (readRegister a)
  | write (a v : Byte) (ha : A a) : OfAccesses A (writeRegister a v)
  | writeProtected (a v : Byte) (ha : A a) : OfAccesses A (writeProtected a v)

/-- What is made of accesses goes from rest to rest (10_state.md R21, R22). -/
theorem Ctrl.OfAccesses.leads {A : Byte → Prop} {α : Type} {p : Ctrl α} (h : p.OfAccesses A) :
    p.Leads restLines restLines := by
  induction h with
  | done a => rfl
  | andThen _ _ ihp ihf => exact ihp.andThen ihf
  | transmit v => exact transmitByte_leads v false
  | receive => exact receiveByte_leads false
  | read a => exact readRegister_leads a
  | write a v _ => exact writeRegister_leads a v
  | writeProtected a v _ => exact writeProtected_leads a v

/-- The addresses that the instruction may write to are all but that of the Control register, which WRREG and WRPROT
reach by naming it (10_state.md R49). -/
def MayWrite (i : Instr) (a : Byte) : Prop :=
  a = regWriteAddr .ctl → (∃ v, i = .wrreg 0x90#8 v) ∨ ∃ v, i = .wrprot 0x90#8 v

section
variable {A : Byte → Prop}

theorem getField_ofAccesses (f : Field) : (getField f).OfAccesses A := .andThen (.read _) fun _ => .done _

theorem setField_ofAccesses (hA : ∀ r, r ≠ .ctl → A (regWriteAddr r)) (f : Field) (v : Half) :
    (setField f v).OfAccesses A := .writeProtected _ _ (hA _ (by cases f <;> decide))

theorem startOscillator_ofAccesses (hA : ∀ r, r ≠ .ctl → A (regWriteAddr r)) : startOscillator.OfAccesses A :=
  .andThen (.read _) fun _ => .writeProtected _ _ (hA .sec (by decide))

theorem stopOscillator_ofAccesses (hA : ∀ r, r ≠ .ctl → A (regWriteAddr r)) : stopOscillator.OfAccesses A :=
  .andThen (.read _) fun _ => .writeProtected _ _ (hA .sec (by decide))

theorem getDateTime_ofAccesses : getDateTime.OfAccesses A :=
  .andThen (getField_ofAccesses _) fun _ => .andThen (getField_ofAccesses _) fun _ =>
  .andThen (getField_ofAccesses _) fun _ => .andThen (getField_ofAccesses _) fun _ =>
  .andThen (getField_ofAccesses _) fun _ => .andThen (getField_ofAccesses _) fun _ =>
  .andThen (getField_ofAccesses _) fun _ => .done _

theorem setDateTime_ofAccesses (hA : ∀ r, r ≠ .ctl → A (regWriteAddr r)) (y mo d w h mi s : Half) :
    (setDateTime y mo d w h mi s).OfAccesses A :=
  .andThen (setField_ofAccesses hA _ _) fun _ => .andThen (setField_ofAccesses hA _ _) fun _ =>
  .andThen (setField_ofAccesses hA _ _) fun _ => .andThen (setField_ofAccesses hA _ _) fun _ =>
  .andThen (setField_ofAccesses hA _ _) fun _ => .andThen (setField_ofAccesses hA _ _) fun _ =>
  setField_ofAccesses hA _ _

theorem rereadUntilEqual_ofAccesses (n : Nat) (x : Snapshot) : (rereadUntilEqual n x).OfAccesses A := by
  induction n generalizing x with
  | zero => exact .andThen getDateTime_ofAccesses fun _ => .done _
  | succ n ih =>
    refine .andThen getDateTime_ofAccesses fun y => ?_
    split
    · exact .done _
    · exact ih y

end

theorem regWriteAddr_ne_ctl {r : Reg} (h : r ≠ .ctl) : regWriteAddr r ≠ regWriteAddr .ctl := by
  cases r <;> revert h <;> decide

/-- No RAM operation writes to the Control register (46_ram.md R200). -/
theorem ramWriteAddr_ne_ctl (slot : Half) : ramWriteAddr slot ≠ regWriteAddr .ctl := by
  intro h
  have hplace := writePlace_ramWriteAddr slot
  rw [h, writePlace_regWriteAddr] at hplace
  cases hplace

/-- Every operation of the controller is made of accesses. -/
theorem operation_ofAccesses {par : Params} {i : Instr} {p : Ctrl Response} (hp : operation par i = some p) :
    p.OfAccesses (MayWrite i) := by
  have hA : ∀ r, r ≠ .ctl → MayWrite i (regWriteAddr r) := fun r hr hctl => (regWriteAddr_ne_ctl hr hctl).elim
  have hstart := startOscillator_ofAccesses hA
  have hstop := stopOscillator_ofAccesses hA
  cases i <;> cases hp
  case txb => exact .andThen (.transmit _) fun _ => .done _
  case rxb => exact .andThen .receive fun _ => .done _
  case rdreg | getram => exact .andThen (.read _) fun _ => .done _
  case wrreg => exact .andThen (.write _ _ fun h => .inl ⟨_, by rw [h]; rfl⟩) fun _ => .done _
  case wrprot => exact .andThen (.writeProtected _ _ fun h => .inr ⟨_, by rw [h]; rfl⟩) fun _ => .done _
  case d2b | b2d => exact .done _
  case getSec | getMin | getHr | getDay | getMon | getWday | getYr =>
    exact .andThen (getField_ofAccesses _) fun _ => .done _
  case setSec | setMin | setHr | setDay | setMon | setWday | setYr =>
    exact .andThen (setField_ofAccesses hA _ _) fun _ => .done _
  case start => exact .andThen hstart fun _ => .done _
  case stop => exact .andThen hstop fun _ => .done _
  case getdt => exact .andThen getDateTime_ofAccesses fun _ => .done _
  case setdt => exact .andThen (setDateTime_ofAccesses hA _ _ _ _ _ _ _) fun _ => .done _
  case getdtA =>
    unfold getdtAProg
    split
    · exact .andThen getDateTime_ofAccesses (rereadUntilEqual_ofAccesses _)
    · exact .done _
  case setdtA =>
    unfold setdtAProg
    split
    · exact .andThen hstop fun _ => .andThen (setDateTime_ofAccesses hA _ _ _ _ _ _ _) fun _ =>
        .andThen hstart fun _ => .done _
    · exact .done _
  case setram =>
    exact .andThen (.writeProtected _ _ fun h => (ramWriteAddr_ne_ctl _ h).elim) fun _ => .done _

/-! ### The STATUS an operation answers (10_state.md R29) -/

/-- However the sampled levels fall, an answer meets `Q`. -/
def Ctrl.AllAnswers {α : Type} (Q : α → Prop) : Ctrl α → Prop
  | .done a => Q a
  | .refuse _ => True
  | .event _ k => ∀ b, (k b).AllAnswers Q
  | .outside _ _ k => ∀ b, (k b).AllAnswers Q

theorem Ctrl.AllAnswers.of_andThen {α β : Type} {Q : β → Prop} (p : Ctrl α) {f : α → Ctrl β}
    (h : ∀ a, (f a).AllAnswers Q) : (p.andThen f).AllAnswers Q := by
  induction p with
  | done a => exact h a
  | refuse r => trivial
  | event e k ih => exact ih
  | outside r e k ih => exact ih

theorem Ctrl.AllAnswers.run {α : Type} {Q : α → Prop} {p : Ctrl α} {s t : State} {a : α} (h : p.AllAnswers Q)
    (hrun : p.run s = .ok (a, t)) : Q a := by
  induction p generalizing s with
  | done a =>
    cases hrun
    exact h
  | refuse r => cases hrun
  | outside r e k => cases hrun
  | event e k ih =>
    obtain ⟨b, u, -, hrest⟩ := Ctrl.run_event hrun
    exact ih b (h b) hrest

theorem Ctrl.AllAnswers.after {α : Type} {Q : α → Prop} {p : Ctrl α} (h : p.AllAnswers Q) (l : List Bool) :
    (p.after l).AllAnswers Q := by
  induction l generalizing p with
  | nil => cases p <;> exact h
  | cons b l ih =>
    cases p with
    | done a => exact h
    | refuse r => exact h
    | event e k => exact ih (h b)
    | outside r e k => exact ih (h b)

/-- STATUS bits 15:9 are 0. -/
theorem packStatus_high (derr : BitVec 7) (torn ill : Bool) :
    (packStatus derr torn ill).extractLsb' 9 7 = 0#7 :=
  (BitVec.extractLsb'_append_eq_of_le (xhi := 0#7 ++ BitVec.ofBool ill ++ BitVec.ofBool torn) (by decide)).trans <|
  (BitVec.extractLsb'_append_eq_of_le (xhi := 0#7 ++ BitVec.ofBool ill) (by decide)).trans <|
  BitVec.extractLsb'_append_eq_left

/-- The STATUS in a response of `i`: bits 15:9 are 0, and no flag is raised but by the gets, the snapshots and an absent
option. -/
def RightStatus (par : Params) (i : Instr) (r : Response) : Prop :=
  r.status.extractLsb' 9 7 = 0#7 ∧
    (raisesFlags i = false → (i.isOptional = true → par.hasAtomicDT = true) → r.status = 0#16)

theorem rightStatus_of_noFlag {par : Params} {i : Instr} {r : Response} (h : r.status = 0#16) : RightStatus par i r := by
  rw [RightStatus, h]
  exact ⟨rfl, fun _ _ => rfl⟩

theorem getResult_rightStatus {par : Params} {i : Instr} (hi : raisesFlags i = true) (v : Half) (err : Bool) :
    RightStatus par i (getResult v err) :=
  ⟨packStatus_high _ _ _, by simp [hi]⟩

theorem snapshotResult_rightStatus {par : Params} {i : Instr} (hi : raisesFlags i = true) (x : Snapshot) (torn : Bool) :
    RightStatus par i (snapshotResult x torn) :=
  ⟨packStatus_high _ _ _, by simp [hi]⟩

theorem rightStatus_of_absent {par : Params} {i : Instr} (hi : i.isOptional = true) (hpar : ¬ par.hasAtomicDT = true) :
    RightStatus par i illegalResult :=
  ⟨packStatus_high _ _ _, fun _ h => absurd (h hi) hpar⟩

/-- Whatever the line events of a snapshot are, the loop answers a snapshot's response. -/
theorem rereadUntilEqual_rightStatus {par : Params} {i : Instr} (hi : raisesFlags i = true) (n : Nat) (x : Snapshot) :
    (rereadUntilEqual n x).AllAnswers (RightStatus par i) := by
  induction n generalizing x with
  | zero => exact .of_andThen _ fun y => snapshotResult_rightStatus hi _ _
  | succ n ih =>
    rw [rereadUntilEqual]
    generalize getDateTime = snapshot
    refine .of_andThen _ fun y => ?_
    split
    · exact snapshotResult_rightStatus hi _ _
    · exact ih y

/-- Every operation answers a STATUS as 10_state.md R29 has it. -/
theorem operation_rightStatus {par : Params} {i : Instr} {p : Ctrl Response} (hp : operation par i = some p) :
    p.AllAnswers (RightStatus par i) := by
  cases i <;> cases hp
  case d2b | b2d => exact rightStatus_of_noFlag rfl
  case getSec | getMin | getHr | getDay | getMon | getWday | getYr =>
    exact .of_andThen _ fun _ => getResult_rightStatus rfl _ _
  case getdt => exact .of_andThen _ fun _ => snapshotResult_rightStatus rfl _ _
  case getdtA =>
    unfold getdtAProg
    split
    · exact .of_andThen _ (rereadUntilEqual_rightStatus rfl _)
    · next hpar => exact rightStatus_of_absent rfl hpar
  case setdtA =>
    unfold setdtAProg
    split
    · exact .of_andThen _ fun _ => .of_andThen _ fun _ => .of_andThen _ fun _ => rightStatus_of_noFlag rfl
    · next hpar => exact rightStatus_of_absent rfl hpar
  all_goals exact .of_andThen _ fun _ => rightStatus_of_noFlag rfl

end Sys2Proof.Machine
end

section
/-! PROOFS. Everything a bus command and a step of the machine can do. -/

namespace Sys2Proof.Machine

/-! ### Bus commands -/

/-- Everything a bus command taken alone can do: a write at the place its command byte names, or a read
(00_scope.md R14, 47_device_target.md R225 to R244). -/
theorem busCommand_cases {par : Params} {i : Instr} {s t : State} (hp : operation par i = none)
    (h : exec i s = .next t) :
    (∃ a v p, writePlace a = some p ∧ t = busWrite a v p s ∧ (p = .reg .ctl → ∃ d, i = .wrCtl d)) ∨
      ∃ a v n, t = busRead a v { s with draws := n } := by
  have hram : ∀ slot, slotEncodable slot = true → writePlace (ramCommandWrite slot) = some (.ram slot.toNat) := by
    decide
  have hunmapped : ∀ c, unmappedFrame c s = .next t → ∃ a v n, t = busRead a v { s with draws := n } := by
    intro c hc
    unfold unmappedFrame at hc
    split at hc
    · cases hc
      exact ⟨c, _, _, rfl⟩
    · cases hc
  cases i <;> cases hp
  case wrSec | wrMin | wrHr | wrDay | wrMon | wrWday | wrYr | wrWp =>
    cases h
    exact .inl ⟨_, _, _, writePlace_regWriteAddr _, rfl, by simp⟩
  case wrCtl d =>
    cases h
    exact .inl ⟨_, _, _, writePlace_regWriteAddr _, rfl, fun _ => ⟨d, rfl⟩⟩
  case rdSec | rdMin | rdHr | rdDay | rdMon | rdWday | rdYr | rdWp | rdCtl =>
    cases h
    exact .inr ⟨_, _, s.draws, rfl⟩
  case wrRam slot d =>
    simp only [exec, execWrRam] at h
    split at h
    · next hslot =>
      cases h
      exact .inl ⟨_, _, _, hram slot hslot, rfl, by simp⟩
    · exact .inr (hunmapped _ h)
  case rdRam slot =>
    simp only [exec, execRdRam] at h
    split at h
    · cases h
      exact .inr ⟨_, _, s.draws, rfl⟩
    · exact .inr (hunmapped _ h)

/-- An instruction executed is an operation of the controller run to its answer, or a bus command. -/
theorem exec_cases {i : Instr} {s t : State} (h : exec i s = .next t) :
    (∃ p r u, operation s.par i = some p ∧ p.run s = .ok (r, u) ∧ t = respond r u) ∨ operation s.par i = none := by
  cases hp : operation s.par i with
  | none => exact .inr rfl
  | some p =>
    rw [exec_of_operation hp] at h
    obtain ⟨r, u, hrun, ht⟩ := perform_eq_next.1 h
    exact .inl ⟨p, r, u, rfl, hrun, ht⟩

/-! ### Where a running command stands (10_state.md R30) -/

/-- An operation at a point of it: it has a line event to perform, inside the contract or outside it. -/
def Ctrl.HasEvent {α : Type} (p : Ctrl α) (e : LineEvent) (k : Bool → Ctrl α) : Prop :=
  p = .event e k ∨ ∃ r, p = .outside r e k

theorem Ctrl.after_nil {α : Type} (p : Ctrl α) : p.after [] = p := by cases p <;> rfl

/-- Line events one after another are performed in two parts. -/
theorem Ctrl.after_append {α : Type} (p : Ctrl α) (l m : List Bool) : p.after (l ++ m) = (p.after l).after m := by
  induction l generalizing p with
  | nil => rw [Ctrl.after_nil, List.nil_append]
  | cons b l ih =>
    cases p with
    | event e k => exact ih (k b)
    | outside r e k => exact ih (k b)
    | done a => cases m <;> rfl
    | refuse r => cases m <;> rfl

theorem Ctrl.HasEvent.after {α : Type} {p : Ctrl α} {done : List Bool} {e : LineEvent} {k : Bool → Ctrl α}
    (h : (p.after done).HasEvent e k) (b : Bool) : p.after (done ++ [b]) = k b := by
  rw [Ctrl.after_append]
  obtain h | ⟨r, h⟩ := h <;> rw [h] <;> exact Ctrl.after_nil (k b)

/-! ### Everything a step can do -/

/-- What a step from `s` may have done: nothing, a TICK, a reset, a word refused, an instruction executed, an unmapped read
frame, a command begun or gone on with by one line event. An input taken leaves `rest`. -/
inductive StepEffect (s : State) : State → Prop
  | rests : StepEffect s s
  | ticks (rest : List Input) : StepEffect s (tick { s with inbox := rest })
  | resets {t : State} (rest : List Input) (h : applyReset { s with inbox := rest } = .ok t) : StepEffect s t
  | refuses (rest : List Input) (hidle : s.seq = .idle) : StepEffect s (refuseCommand { s with inbox := rest })
  | executes {t : State} {i : Instr} (rest : List Input) (hidle : s.seq = .idle)
      (h : exec i { s with inbox := rest } = .next t) : StepEffect s t
  | readsUnmapped (c : Byte) (rest : List Input) (hidle : s.seq = .idle) :
      StepEffect s (readUnmapped c { s with inbox := rest })
  | begins {t : State} {i : Instr} {p : Ctrl Response} (rest : List Input) (hidle : s.seq = .idle)
      (hp : operation s.par i = some p) (h : settle i [] p { s with inbox := rest } = .next t) : StepEffect s t
  | goesOn {t u : State} {i : Instr} {p : Ctrl Response} {done : List Bool} {e : LineEvent} {k : Bool → Ctrl Response}
      {b : Bool} (hseq : s.seq = .running i done) (hp : operation s.par i = some p) (hk : (p.after done).HasEvent e k)
      (he : lineEvent e s = .ok (b, u)) (h : settle i (done ++ [b]) (k b) u = .next t) : StepEffect s t
  | ends {t : State} {i : Instr} {p : Ctrl Response} {done : List Bool} (hseq : s.seq = .running i done)
      (hp : operation s.par i = some p) (h : settle i done (p.after done) s = .next t) : StepEffect s t
  | executesFrame {t : State} {i : Instr} {done : List Bool} (hseq : s.seq = .running i done)
      (hp : operation s.par i = none) (h : exec i { s with seq := .idle } = .next t) : StepEffect s t

theorem stepEffect_of_resetInput {s t : State} (rest : List Input)
    (h : resetInput { s with inbox := rest } = .next t) : StepEffect s t := by
  unfold resetInput at h
  split at h
  · next hreset =>
    cases h
    exact .resets rest hreset
  · cases h

theorem stepEffect_of_takeInput {x : Input} {s t : State} {rest : List Input} (hidle : s.seq = .idle)
    (h : takeInput x { s with inbox := rest } = .next t) : StepEffect s t := by
  cases x with
  | host w =>
    simp only [takeInput, hostCommand] at h
    split at h
    · exact .executes rest hidle h
    · cases h
      exact .refuses rest hidle
  | hostByLine w =>
    simp only [takeInput, hostCommandByLine] at h
    split at h
    · split at h
      · next hp => exact .begins rest hidle hp h
      · exact .executes rest hidle h
    · cases h
      exact .refuses rest hidle
  | internal w =>
    simp only [takeInput, internalOperation] at h
    split at h
    · exact .executes rest hidle h
    · cases h
      exact .refuses rest hidle
  | frame f =>
    simp only [takeInput, busFrame] at h
    split at h
    · exact .executes rest hidle h
    · unfold unmappedFrame at h
      split at h
      · cases h
        exact .readsUnmapped _ rest hidle
      · cases h
  | tick =>
    cases h
    exact .ticks rest
  | reset => exact stepEffect_of_resetInput rest h

/-- A step of a running command performs its next line event and settles what follows (10_state.md R30). -/
theorem advance_of_lineEvent {s u : State} {i : Instr} {p : Ctrl Response} {done : List Bool} {e : LineEvent}
    {k : Bool → Ctrl Response} {b : Bool} (hp : operation s.par i = some p) (hk : (p.after done).HasEvent e k)
    (he : lineEvent e s = .ok (b, u)) : advance i done s = settle i (done ++ [b]) (k b) u := by
  simp only [advance, hp]
  obtain hk | ⟨r, hk⟩ := hk <;> simp only [hk, he]

theorem stepEffect_of_advance {i : Instr} {done : List Bool} {s t : State} (hseq : s.seq = .running i done)
    (h : advance i done s = .next t) : StepEffect s t := by
  cases hp : operation s.par i with
  | none =>
    simp only [advance, hp] at h
    exact .executesFrame hseq hp h
  | some p =>
    have hevent : ∀ {e k}, (p.after done).HasEvent e k → StepEffect s t := by
      intro e k hk
      cases he : lineEvent e s with
      | error r =>
        simp only [advance, hp] at h
        obtain hk | ⟨r, hk⟩ := hk <;> simp [hk, he] at h
      | ok x =>
        rw [advance_of_lineEvent hp hk he] at h
        exact .goesOn hseq hp hk he h
    cases hq : p.after done with
    | event e k => exact hevent (.inl hq)
    | outside r e k => exact hevent (.inr ⟨r, hq⟩)
    | done r =>
      simp only [advance, hp, hq] at h
      exact .ends hseq hp (hq ▸ h)
    | refuse r =>
      simp only [advance, hp, hq] at h
      exact .ends hseq hp (hq ▸ h)

/-- Everything a step can do. -/
theorem stepEffect_of_step {s t : State} (h : step s = .next t) : StepEffect s t := by
  unfold step at h
  split at h
  · next hidle =>
    unfold stepIdle at h
    split at h
    · cases h
      exact .rests
    · exact stepEffect_of_takeInput hidle h
  · next hseq =>
    unfold stepRunning at h
    split at h
    · cases h
      exact .ticks _
    · exact stepEffect_of_resetInput _ h
    · exact stepEffect_of_advance hseq h

end Sys2Proof.Machine
end

section
/-! PROOFS. Every step keeps the invariant of memory, status, bus slave and lines (O54), and the parameters (O52). -/

namespace Sys2Proof.Machine

/-! ### The invariant is kept -/

theorem linesSound_of_idle {s : State} (h : s.seq = .idle) : LinesSound s ↔ AtRest s := by
  rw [LinesSound, h]

theorem atRest_iff {s : State} : AtRest s ↔ (s.cs, s.clk) = restLines := by
  rw [Prod.mk.injEq]

/-- The device's registers, its bus slave's bytes, the draws and the inputs may change, as long as the RAM stays
canonical and the slave's count and drive stay as they were. -/
theorem Sound.withDevice {s : State} (hs : Sound s) (d : RegFile) (b : BusSlave) (n : Nat) (inbox : List Input)
    (hram : Memory.wf d.ram = true) (hcnt : b.cnt = s.bus.cnt) (hdrv : b.drv = s.bus.drv) :
    Sound { s with regs := d, bus := b, draws := n, inbox := inbox } where
  ram := hram
  status := hs.status
  bus := by
    simp only [BusSound, hcnt, hdrv]
    exact hs.bus
  lines := hs.lines

/-- The inputs are no part of the invariant. -/
theorem Sound.withInbox {s : State} (hs : Sound s) (rest : List Input) : Sound { s with inbox := rest } :=
  hs.withDevice s.regs s.bus s.draws rest hs.ram rfl rfl

theorem sound_tick {s : State} (hs : Sound s) : Sound (tick s) :=
  hs.withDevice _ s.bus s.draws s.inbox (by simpa [RamSound] using hs.ram) rfl rfl

theorem sound_busWrite {a v : Byte} {p : Place} {s : State} (hs : Sound s) (hp : writePlace a = some p) :
    Sound (busWrite a v p s) :=
  hs.withDevice _ { s.bus with cmd := a, wsh := v } s.draws s.inbox (wf_storeAt hs.ram hp v) rfl rfl

theorem sound_busRead {s : State} (hs : Sound s) (a v : Byte) (n : Nat) : Sound (busRead a v { s with draws := n }) :=
  hs.withDevice s.regs { s.bus with cmd := a, rlat := v, dbit := bitOf v 7 } n s.inbox hs.ram rfl rfl

/-- A command answered at rest, with a STATUS whose upper bits are 0, leaves the machine sound. -/
theorem sound_respond {r : Response} {s : State} (hram : RamSound s) (hbus : BusSound s) (hrest : AtRest s)
    (hr : r.status.extractLsb' 9 7 = 0#7) (hidle : s.seq = .idle) : Sound (respond r s) :=
  ⟨hram, hr, hbus, (linesSound_of_idle (by exact hidle)).2 hrest⟩

theorem sound_exec {i : Instr} {s t : State} (hs : Sound s) (hidle : s.seq = .idle) (h : exec i s = .next t) :
    Sound t := by
  have hrest : AtRest s := (linesSound_of_idle hidle).1 hs.lines
  obtain ⟨p, r, u, hp, hrun, rfl⟩ | hp := exec_cases h
  · obtain ⟨hram, hbus⟩ : RamSound u ∧ BusSound u :=
      Ctrl.run_keeps (I := fun x => RamSound x ∧ BusSound x) (fun e x y he hx => ⟨he.ramSound hx.1, he.busSound hx.2⟩)
        hrun ⟨hs.ram, hs.bus⟩
    have hlines : (u.cs, u.clk) = restLines := by
      refine Ctrl.Leads.run ?_ hrun
      rw [atRest_iff.1 hrest]
      exact (operation_ofAccesses hp).leads
    obtain ⟨hstatus, -⟩ := (operation_rightStatus hp).run hrun
    obtain ⟨hseq, -, -⟩ := Ctrl.run_sameEnvironment hrun
    exact sound_respond hram hbus (atRest_iff.2 hlines) hstatus (hseq.trans hidle)
  · obtain ⟨a, v, p, hplace, rfl, -⟩ | ⟨a, v, n, rfl⟩ := busCommand_cases hp h
    · exact sound_busWrite hs hplace
    · exact sound_busRead hs a v n

theorem sound_reset {s t : State} (hs : Sound s) (h : applyReset s = .ok t) : Sound t := by
  obtain ⟨u, heffect, rfl⟩ := applyReset_eq h
  have hcs : u.cs = false := congrArg Prod.fst heffect.lines
  have hbus := heffect.busSound hs.bus
  rw [BusSound, hcs] at hbus
  have hstatus : StatusSound (resetController u) := by
    rw [StatusSound, resetController_status]
    rfl
  exact ⟨heffect.ramSound hs.ram, hstatus, hbus, (linesSound_of_idle rfl).2 ⟨rfl, rfl⟩⟩

/-- A command's next position is sound where the device and STATUS are, and what is left of the command brings the lines
to rest. -/
theorem sound_settle {i : Instr} {p q : Ctrl Response} {done : List Bool} {s t : State} (hram : RamSound s)
    (hstatus : StatusSound s) (hbus : BusSound s) (hp : operation s.par i = some p) (hq : p.after done = q)
    (hlines : q.endsAtRest (s.cs, s.clk)) (h : settle i done q s = .next t) : Sound t := by
  have hgoesOn : Sound { s with seq := .running i done } := ⟨hram, hstatus, hbus, by
    simp only [LinesSound, hp, hq]
    exact hlines⟩
  cases q with
  | done r =>
    have hr : r.status.extractLsb' 9 7 = 0#7 := by
      have hanswer := (operation_rightStatus hp).after done
      rw [hq] at hanswer
      exact hanswer.1
    cases h
    exact sound_respond (s := { s with seq := .idle }) hram hbus (atRest_iff.2 hlines) hr rfl
  | refuse r => cases h
  | event e k =>
    cases h
    exact hgoesOn
  | outside r e k =>
    cases h
    exact hgoesOn

theorem Ctrl.HasEvent.endsAtRest {α : Type} {p : Ctrl α} {e : LineEvent} {k : Bool → Ctrl α} {l : Bool × Bool}
    (h : p.HasEvent e k) (hp : p.endsAtRest l) (b : Bool) : (k b).endsAtRest (linesAfter e l) := by
  obtain rfl | ⟨r, rfl⟩ := h
  · exact hp b
  · exact hp b

theorem linesSound_running {s : State} {i : Instr} {p : Ctrl Response} {done : List Bool}
    (hseq : s.seq = .running i done) (hp : operation s.par i = some p) : LinesSound s ↔ (p.after done).endsAtRest (s.cs, s.clk) := by
  simp only [LinesSound, hseq, hp]

theorem StepEffect.sound {s t : State} (h : StepEffect s t) (hs : Sound s) : Sound t := by
  cases h with
  | rests => exact hs
  | ticks rest => exact sound_tick (hs.withInbox rest)
  | resets rest h => exact sound_reset (hs.withInbox rest) h
  | refuses rest hidle =>
    exact sound_respond hs.ram hs.bus ((linesSound_of_idle hidle).1 hs.lines) (packStatus_high _ _ _) hidle
  | executes rest hidle h => exact sound_exec (hs.withInbox rest) hidle h
  | readsUnmapped c rest hidle => exact sound_busRead (hs.withInbox rest) _ _ _
  | begins rest hidle hp h =>
    have hlines := (operation_ofAccesses hp).leads.endsAtRest
    rw [← atRest_iff.1 ((linesSound_of_idle hidle).1 hs.lines)] at hlines
    exact sound_settle (s := { s with inbox := rest }) hs.ram hs.status hs.bus hp (Ctrl.after_nil _) hlines h
  | goesOn hseq hp hk he h =>
    have heffect := lineEffect_of_lineEvent he
    refine sound_settle (heffect.ramSound hs.ram) ?_ (heffect.busSound hs.bus) (heffect.par ▸ hp) (hk.after _) ?_ h
    · rw [StatusSound, heffect.status]
      exact hs.status
    · rw [heffect.lines]
      exact hk.endsAtRest ((linesSound_running hseq hp).1 hs.lines) _
  | ends hseq hp h =>
    exact sound_settle hs.ram hs.status hs.bus hp rfl ((linesSound_running hseq hp).1 hs.lines) h
  | executesFrame hseq hp h =>
    have hlines := hs.lines
    simp only [LinesSound, hseq, hp] at hlines

/-! ### The parameters are kept (10_state.md R53) -/

theorem exec_par {i : Instr} {s t : State} (h : exec i s = .next t) : t.par = s.par := by
  obtain ⟨p, r, u, hp, hrun, rfl⟩ | hp := exec_cases h
  · obtain ⟨-, hpar, -⟩ := Ctrl.run_sameEnvironment hrun
    exact hpar
  · obtain ⟨a, v, p, -, rfl, -⟩ | ⟨a, v, n, rfl⟩ := busCommand_cases hp h
    · rfl
    · rfl

theorem applyReset_par {s t : State} (h : applyReset s = .ok t) : t.par = s.par := by
  obtain ⟨u, heffect, rfl⟩ := applyReset_eq h
  exact heffect.par

theorem settle_par {i : Instr} {done : List Bool} {p : Ctrl Response} {s t : State} (h : settle i done p s = .next t) :
    t.par = s.par := by
  cases p <;> cases h <;> rfl

theorem StepEffect.par {s t : State} (h : StepEffect s t) : t.par = s.par := by
  cases h with
  | rests => rfl
  | ticks rest => rfl
  | resets rest h => exact applyReset_par (s := { s with inbox := rest }) h
  | refuses rest _ => rfl
  | executes rest _ h => exact exec_par (s := { s with inbox := rest }) h
  | readsUnmapped c rest _ => rfl
  | begins rest _ _ h => exact settle_par (s := { s with inbox := rest }) h
  | goesOn _ _ _ he h =>
    exact (settle_par h).trans (lineEffect_of_lineEvent he).par
  | ends _ _ h => exact settle_par h
  | executesFrame _ _ h => exact exec_par (s := { s with seq := .idle }) h

end Sys2Proof.Machine

open Sys2Proof Sys2Proof.Machine

/-- Settles O54: each effect a step can have keeps the invariant, a command's since its line events do and since what is
left of it brings the lines to rest. -/
theorem soundKept : Obligations.SoundKept := fun _ _ hs hstep => (stepEffect_of_step hstep).sound hs

/-- Settles O52: no effect a step can have touches the parameters. -/
theorem parametersFixed : Obligations.ParametersFixed := fun _ _ hstep => (stepEffect_of_step hstep).par
end

section
/-! PROOFS. A command run line by line (O59, O11): the device does not see where the sequencer stands, so the line
events one a step are those of the command run in one step. -/

namespace Sys2Proof.Machine

/-! ### The device does not see the sequencer -/

/-- The state with the sequencer at `q`. -/
abbrev State.withSeq (s : State) (q : SeqPos) : State := { s with seq := q }

theorem deviceListens_withSeq (s : State) (q : SeqPos) : deviceListens (s.withSeq q) = deviceListens s := rfl

theorem deviceDrives_withSeq (s : State) (q : SeqPos) : deviceDrives (s.withSeq q) = deviceDrives s := rfl

theorem readData_withSeq (s : State) (q : SeqPos) : readData (s.withSeq q) = ((readData s).1, (readData s).2.withSeq q) := by
  simp only [readData, deviceDrives_withSeq]
  dsimp only [State.withSeq]
  split
  case h_2 => split_ifs <;> rfl
  all_goals rfl

theorem devRead_withSeq (s : State) (a : Byte) (q : SeqPos) :
    devRead (s.withSeq q) a = ((devRead s a).1, (devRead s a).2.withSeq q) := by
  unfold devRead
  split <;> rfl

theorem commandDone_withSeq (s : State) (q : SeqPos) : commandDone (s.withSeq q) = (commandDone s).withSeq q := by
  simp only [commandDone, devRead_withSeq]
  dsimp only [State.withSeq]
  split_ifs <;> rfl

theorem captureCommand_withSeq (s : State) (q : SeqPos) : captureCommand (s.withSeq q) = (captureCommand s).withSeq q := by
  obtain ⟨b, n, hread⟩ := readData_eq s
  simp only [captureCommand, readData_withSeq, hread]
  dsimp only [State.withSeq]
  split_ifs
  · exact commandDone_withSeq { s with
      bus := { s.bus with cmd := setBit s.bus.cmd s.bus.cnt b, cnt := s.bus.cnt + 1 }, draws := n } q
  · rfl

theorem captureData_withSeq (s : State) (q : SeqPos) : captureData (s.withSeq q) = (captureData s).map (·.withSeq q) := by
  simp only [captureData, readData_withSeq]
  dsimp only [State.withSeq]
  split_ifs
  · split <;> rfl
  · rfl

theorem clkRise_withSeq (s : State) (q : SeqPos) : clkRise (s.withSeq q) = (clkRise s).map (·.withSeq q) := by
  simp only [clkRise, deviceListens_withSeq, captureCommand_withSeq, captureData_withSeq]
  dsimp only [State.withSeq]
  split_ifs <;> rfl

theorem clkFall_withSeq (s : State) (q : SeqPos) : clkFall (s.withSeq q) = (clkFall s).withSeq q := by
  simp only [clkFall, deviceListens_withSeq]
  dsimp only [State.withSeq]
  split_ifs <;> rfl

theorem cutWrite_withSeq (s : State) (q : SeqPos) : cutWrite (s.withSeq q) = (cutWrite s).map (·.withSeq q) := by
  unfold cutWrite
  dsimp only [State.withSeq]
  split <;> rfl

theorem csFall_withSeq (s : State) (q : SeqPos) : csFall (s.withSeq q) = (csFall s).map (·.withSeq q) := by
  simp only [csFall, deviceListens_withSeq, cutWrite_withSeq]
  dsimp only [State.withSeq]
  split_ifs
  · cases cutWrite s <;> rfl
  · rfl

theorem tickTimes_withSeq (n : Nat) (s : State) (q : SeqPos) : tickTimes n (s.withSeq q) = (tickTimes n s).withSeq q := by
  induction n generalizing s with
  | zero => rfl
  | succ n ih => exact ih (tick s)

theorem frameTicks_withSeq (s : State) (q : SeqPos) : frameTicks (s.withSeq q) = (frameTicks s).withSeq q := by
  unfold frameTicks
  dsimp only [State.withSeq]
  split
  · rfl
  · next n rest _ => exact tickTimes_withSeq n { s with ticks := rest } q

/-- A line event does the same wherever the sequencer stands. -/
theorem lineEvent_withSeq (e : LineEvent) (s : State) (q : SeqPos) :
    lineEvent e (s.withSeq q) = (lineEvent e s).map fun x => (x.1, x.2.withSeq q) := by
  cases e with
  | cs b =>
    cases b with
    | true =>
      simp only [lineEvent, frameTicks_withSeq]
      dsimp only [State.withSeq]
      split_ifs <;> rfl
    | false =>
      simp only [lineEvent, csFall_withSeq]
      dsimp only [State.withSeq]
      split_ifs
      · cases csFall s <;> rfl
      · rfl
  | clk b =>
    cases b with
    | true =>
      simp only [lineEvent, clkRise_withSeq]
      dsimp only [State.withSeq]
      split_ifs
      · rfl
      · cases clkRise s <;> rfl
    | false =>
      simp only [lineEvent, clkFall_withSeq]
      dsimp only [State.withSeq]
      split_ifs <;> rfl
  | dir d => rfl
  | dout b => rfl
  | sample =>
    rw [lineEvent, readData_withSeq]
    rfl

theorem settle_withSeq (i : Instr) (done : List Bool) (p : Ctrl Response) (s : State) (q : SeqPos) :
    settle i done p (s.withSeq q) = settle i done p s := by
  cases p <;> rfl

/-! ### A step of a running command -/

/-- Neither a TICK nor a reset comes next. -/
def Uninterrupted (s : State) : Prop := s.inbox.head? ≠ some .tick ∧ s.inbox.head? ≠ some .reset

/-- A step of a running command that nothing interrupts is one line event of it (10_state.md R30). -/
theorem step_of_running {s : State} {i : Instr} {done : List Bool} (hseq : s.seq = .running i done)
    (h : Uninterrupted s) : step s = advance i done s := by
  obtain ⟨htick, hreset⟩ := h
  simp only [step, hseq, stepRunning]
  split
  · next h => simp [h] at htick
  · next h => simp [h] at hreset
  · rfl

/-- While line events are left a step moves the sequencer to its next position. -/
theorem settle_of_unfinished {i : Instr} {done : List Bool} {p : Ctrl Response} {s : State} (hdone : ∀ r, p ≠ .done r)
    (hrefuse : ∀ r, p ≠ .refuse r) : settle i done p s = .next { s with seq := .running i done } := by
  cases p with
  | done r => exact (hdone r rfl).elim
  | refuse r => exact (hrefuse r rfl).elim
  | event e k => rfl
  | outside r e k => rfl

/-! ### Step by step to the end of a command -/

/-- `n` steps of a machine from where a step has led. -/
def stepsFrom (M : Host.Core) (n : Nat) :
    Host.Outcome M.State M.Fault M.Refusal → Host.Outcome M.State M.Fault M.Refusal
  | .next s => M.run n s
  | .fault r => .fault r
  | .refused r => .refused r

theorem run_succ_eq_stepsFrom (M : Host.Core) (n : Nat) (s : M.State) : M.run (n + 1) s = stepsFrom M n (M.step s) := by
  rw [Host.Core.run]
  cases M.step s <;> rfl

/-- `n` steps of this machine from where a step has led. -/
def runFrom (n : Nat) (o : Host.Outcome State Fault Refusal) : Host.Outcome State Fault Refusal :=
  stepsFrom Sys2Proof.core n o

theorem run_succ (n : Nat) (s : State) : Sys2Proof.core.run (n + 1) s = runFrom n (step s) :=
  run_succ_eq_stepsFrom Sys2Proof.core n s

theorem runFrom_refused (n : Nat) (r : Refusal) : runFrom n (.refused r) = .refused r := rfl

/-- With a line event to come, the steps to the end of the command begin with that event. -/
theorem runFrom_settle {i : Instr} {q : Ctrl Response} {done : List Bool} {s : State} {e : LineEvent}
    {k : Bool → Ctrl Response} (h : Uninterrupted s) (hk : q.HasEvent e k) :
    runFrom (q.trace s).length (settle i done q s) =
      runFrom ((k (goOn e s).1).trace (goOn e s).2).length (advance i done (s.withSeq (.running i done))) := by
  have hstep := step_of_running (s := s.withSeq (.running i done)) rfl h
  obtain rfl | ⟨r, rfl⟩ := hk
  · exact (run_succ _ _).trans (congrArg (runFrom _) hstep)
  · exact (run_succ _ _).trans (congrArg (runFrom _) hstep)

/-- That event performed, the steps go on from the position after it. -/
theorem runFrom_settle_of_lineEvent {i : Instr} {p q : Ctrl Response} {done : List Bool} {s u : State} {e : LineEvent}
    {k : Bool → Ctrl Response} {b : Bool} (h : Uninterrupted s) (hp : operation s.par i = some p)
    (hq : p.after done = q) (hk : q.HasEvent e k) (he : lineEvent e s = .ok (b, u)) :
    runFrom (q.trace s).length (settle i done q s) =
      runFrom ((k b).trace u).length (settle i (done ++ [b]) (k b) u) := by
  have hat : lineEvent e (s.withSeq (.running i done)) = .ok (b, u.withSeq (.running i done)) := by
    rw [lineEvent_withSeq, he]
    rfl
  rw [runFrom_settle h hk, advance_of_lineEvent (s := s.withSeq (.running i done)) hp (hq ▸ hk) hat, settle_withSeq,
    goOn, he]

/-- Where the device gives that event no meaning, the step refuses the command (47_device_target.md R224, 20_memory.md
R64). -/
theorem runFrom_settle_of_error {i : Instr} {p q : Ctrl Response} {done : List Bool} {s : State} {e : LineEvent}
    {k : Bool → Ctrl Response} {r : Refusal} (h : Uninterrupted s) (hp : operation s.par i = some p)
    (hq : p.after done = q) (hk : q.HasEvent e k) (he : lineEvent e s = .error r) :
    runFrom (q.trace s).length (settle i done q s) = perform q s := by
  have hat : lineEvent e (s.withSeq (.running i done)) = .error r := by
    rw [lineEvent_withSeq, he]
    rfl
  rw [runFrom_settle h hk]
  have hp' : operation (s.withSeq (.running i done)).par i = some p := hp
  obtain rfl | ⟨r', rfl⟩ := hk
  · simp only [advance, hp', hq, hat, perform, Ctrl.run, he, runFrom_refused]
  · simp only [advance, hp', hq, hat, perform, Ctrl.run, runFrom_refused]

theorem Uninterrupted.of_lineEffect {e : LineEvent} {s t : State} (h : Uninterrupted s) (he : LineEffect e s t) :
    Uninterrupted t := by
  obtain ⟨-, -, hinbox⟩ := he.environment
  rw [Uninterrupted, hinbox]
  exact h

/-- Outside the contract the steps end in the refusal the operation left it for. -/
theorem runFrom_settle_of_endsRefused {i : Instr} {p q : Ctrl Response} {done : List Bool} {s : State} {r : Refusal}
    (h : Uninterrupted s) (hp : operation s.par i = some p) (hq : p.after done = q) (hr : q.EndsRefused r) :
    runFrom (q.trace s).length (settle i done q s) = .refused r := by
  induction q generalizing s done with
  | done a => exact hr.elim
  | refuse r' => exact congrArg _ hr
  | event e k _ => exact hr.elim
  | outside r' e k ih =>
    obtain ⟨rfl, hrest⟩ := hr
    have hk : (Ctrl.outside r' e k).HasEvent e k := .inr ⟨r', rfl⟩
    cases he : lineEvent e s with
    | error r => exact runFrom_settle_of_error h hp hq hk he
    | ok x =>
      obtain ⟨b, u⟩ := x
      have heffect := lineEffect_of_lineEvent he
      rw [runFrom_settle_of_lineEvent h hp hq hk he]
      exact ih b (h.of_lineEffect heffect) (heffect.par ▸ hp) ((hq ▸ hk).after b) (hrest b)

/-- The steps of a command from a position of it end as what is left of it does when it runs in one step. -/
theorem runFrom_settle_eq_perform {i : Instr} {p q : Ctrl Response} {done : List Bool} {s : State} {l m : Bool × Bool}
    (hidle : s.seq = .idle) (h : Uninterrupted s) (hp : operation s.par i = some p) (hq : p.after done = q)
    (hlines : q.Leads l m) : runFrom (q.trace s).length (settle i done q s) = perform q s := by
  induction q generalizing s done l with
  | done r =>
    have hseq : { respond r s with seq := .idle } = respond r s := by rw [← hidle]; rfl
    exact congrArg _ hseq
  | refuse r => rfl
  | outside r e k _ =>
    have hr : (Ctrl.outside r e k : Ctrl Response).EndsRefused r := ⟨rfl, hlines⟩
    exact runFrom_settle_of_endsRefused h hp hq hr
  | event e k ih =>
    have hk : (Ctrl.event e k).HasEvent e k := .inl rfl
    cases he : lineEvent e s with
    | error r => exact runFrom_settle_of_error h hp hq hk he
    | ok x =>
      obtain ⟨b, u⟩ := x
      have heffect := lineEffect_of_lineEvent he
      rw [runFrom_settle_of_lineEvent h hp hq hk he,
        ih b (heffect.seq.trans hidle) (h.of_lineEffect heffect) (heffect.par ▸ hp) ((hq ▸ hk).after b) (hlines b)]
      simp only [perform, Ctrl.run, he]

end Sys2Proof.Machine

open Sys2Proof Sys2Proof.Machine

/-- Settles O59: the step performs the event and settles what is left of the operation after it. -/
theorem stepIsOneLineEvent : Obligations.StepIsOneLineEvent := by
  intro s t i p done e k b hseq htick hreset hp hk he
  have hstep : step s = settle i (done ++ [b]) (k b) t := by
    rw [step_of_running hseq ⟨htick, hreset⟩, advance_of_lineEvent hp hk he]
  refine ⟨Ctrl.HasEvent.after hk b, fun r hr => ?_, fun r hr => ?_, fun hdone hrefuse => ?_⟩
  · rw [hstep, hr, settle]
  · rw [hstep, hr, settle]
  · rw [hstep, settle_of_unfinished hdone hrefuse]

/-- Settles O11: the step that presents the word settles the whole operation, and from there each step is its next line
event. -/
theorem lineByLine : Obligations.LineByLine := by
  intro s w i p rest hidle hinbox htick hreset hdecode hp
  have hstep : step s = settle i [] p { s with inbox := rest } := by
    simp only [step, hidle, stepIdle, hinbox, takeInput, hostCommandByLine, hdecode, hp]
  have hrun : runFrom (p.trace { s with inbox := rest }).length (step s) = perform p { s with inbox := rest } := by
    rw [hstep]
    exact runFrom_settle_eq_perform (s := { s with inbox := rest }) hidle ⟨htick, hreset⟩ hp (Ctrl.after_nil p)
      (operation_ofAccesses hp).leads
  rw [Nat.add_comm]
  exact (run_succ _ s).trans (hrun.trans (exec_of_operation (s := { s with inbox := rest }) hp).symm)
end

section
/-! PROOFS. What the legal host words are (O49), and which accesses change the Control register (O51). -/

namespace Sys2Proof.Machine

/-! ### Legal host words -/

theorem eq_of_checkZero {ok : Bool} {i j : Instr} (h : checkZero ok j = .ok i) : i = j := by
  unfold checkZero at h
  split at h <;> cases h
  rfl

/-- A command word stands for an operation of the controller (30_encoding.md R100). -/
theorem operation_of_decodeOp {w : CmdWord} {i : Instr} (h : decodeOp w = .ok i) (par : Params) :
    ∃ p, operation par i = some p := by
  unfold decodeOp at h
  split at h
  case h_25 | h_27 =>
    cases h
    exact ⟨_, rfl⟩
  case h_30 => cases h
  all_goals
    rw [eq_of_checkZero h]
    exact ⟨_, rfl⟩

/-- A legal word is a row of the table, and its option is present (30_encoding.md R99). -/
theorem decodeOp_of_hostDecode {hasAtomicDT : Bool} {w : CmdWord} {i : Instr} (h : hostDecode hasAtomicDT w = .ok i) :
    decodeOp w = .ok i ∧ (i.isOptional = true → hasAtomicDT = true) := by
  unfold hostDecode at h
  split at h
  · cases h
  · next j hj =>
    split at h
    · cases h
    · split at h
      · cases h
      · next habsent =>
        cases h
        exact ⟨hj, by simpa using habsent⟩

/-! ### The Control register (10_state.md R49) -/

/-- A write at another place leaves the Control register alone. -/
theorem storeAt_ctl {p : Place} (hp : p ≠ .reg .ctl) (d : RegFile) (v : Byte) : (storeAt d p v).ctl = d.ctl := by
  unfold storeAt
  split
  · cases p with
    | ram n => rfl
    | reg r =>
      cases r
      case ctl => exact (hp rfl).elim
      all_goals rfl
  · rfl

/-- No other write address names the Control register (10_state.md R40). -/
theorem eq_regWriteAddr_ctl {a : Byte} (h : writePlace a = some (.reg .ctl)) : a = regWriteAddr .ctl := by
  revert h
  revert a
  decide

theorem memRead_ctl (a : Byte) (s : State) : (memRead a s).2.regs.ctl = s.regs.ctl := by
  obtain ⟨v, n, hread⟩ := devRead_eq (frameTicks s) a
  unfold memRead
  split <;> simp [hread]

theorem memWrite_ctl {p : Place} (hp : p ≠ .reg .ctl) (a v : Byte) (s : State) :
    (memWrite a v p s).regs.ctl = s.regs.ctl := by
  unfold memWrite
  split <;> simp [storeAt_ctl hp]

/-- A write frame to an unmapped even address, if it has a meaning, stores nothing: no device listens
(47_device_target.md R224, 60_exceptions.md R252). -/
theorem run_writeFrame_unmapped {a v : Byte} {s t : State} (h : AtRest s) (ha : bitOf a 0 = false)
    (hp : writePlace a = none) (hrun : (writeFrame a v).run s = .ok ((), t)) : t.regs = (frameTicks s).regs := by
  obtain ⟨hcs, hclk⟩ := h
  have hclk' : (csRise (frameTicks s)).clk = false := by simpa using hclk
  rw [writeFrame, run_emit_csRise _ ⟨hcs, hclk⟩] at hrun
  by_cases hl : s.par.link = .absent
  · have hl' : (csRise (frameTicks s)).par.link = .absent := by simpa using hl
    rw [Ctrl.run_andThen_of_run _ (run_transmit_absent hl' hclk'),
      Ctrl.run_andThen_of_run _ (run_transmit_absent (by exact hl') (by exact hclk')),
      run_emit_csFall _ rfl (.inl (by simp [deviceListens, hl]))] at hrun
    cases hrun
    rfl
  · have hl' : Listens (csRise (frameTicks s)) := by simpa using hl
    have hdrv : (csRise (frameTicks s)).bus.drv = false := by rw [bus_frameBegun hl]
    rw [Ctrl.run_andThen_of_run _ (run_transmit_write hl' rfl hclk' (by rw [bus_frameBegun hl]) hdrv ha),
      Ctrl.run_andThen, run_transmit_data (by exact hl') rfl (by exact hclk') rfl (by exact hdrv) ha] at hrun
    simp [devWrite, hp] at hrun

/-- Started at rest, the operation leaves the Control register as it was. -/
def Ctrl.KeepsControl {α : Type} (p : Ctrl α) : Prop :=
  ∀ s a t, AtRest s → p.run s = .ok (a, t) → t.regs.ctl = s.regs.ctl

theorem Ctrl.keepsControl_outsideContract {α β : Type} (r : Refusal) (p : Ctrl α) :
    (p.outsideContract r : Ctrl β).KeepsControl := by
  intro s a t _ hrun
  rw [Ctrl.run_outsideContract] at hrun
  cases hrun

theorem Ctrl.KeepsControl.andThen {α β : Type} {p : Ctrl α} {f : α → Ctrl β} (hp : p.KeepsControl)
    (hlines : p.Leads restLines restLines) (hf : ∀ a, (f a).KeepsControl) : (p.andThen f).KeepsControl := by
  intro s b t hrest hrun
  rw [Ctrl.run_andThen] at hrun
  cases hu : p.run s with
  | error r => simp [hu] at hrun
  | ok x =>
    obtain ⟨a, u⟩ := x
    rw [hu] at hrun
    rw [← atRest_iff.1 hrest] at hlines
    have hrest' : AtRest u := atRest_iff.2 ((hlines.run hu).trans (atRest_iff.1 hrest))
    exact (hf a u b t hrest' hrun).trans (hp s a u hrest hu)

/-! #### Bytes with CS low, which the device ignores (47_device_target.md R211) -/

theorem Ctrl.KeepsControl.clockPulse {α : Type} {p : Ctrl α} (hp : p.KeepsControl) :
    (emit (.clk true) (emit (.clk false) p)).KeepsControl := by
  intro s a t hrest hrun
  rw [run_clockPulse p hrest] at hrun
  exact hp s a t hrest hrun

theorem transmitByte_keepsControl (v : Byte) : (transmitByte v).KeepsControl := by
  have hbits : ∀ is, (txBits v is).KeepsControl := by
    intro is
    induction is with
    | nil =>
      intro s a t _ hrun
      cases hrun
      rfl
    | cons i is ih => exact fun s a t hrest => ih.clockPulse { s with dout := bitOf v i } a t hrest
  exact fun s a t hrest => hbits lsbFirst { s with dir := .output } a t hrest

theorem receiveByte_keepsControl : receiveByte.KeepsControl := by
  have hbits : ∀ is r, (rxBits r is).KeepsControl := by
    intro is
    induction is with
    | nil =>
      intro r s a t _ hrun
      cases hrun
      rfl
    | cons i is ih =>
      intro r s a t hrest hrun
      obtain ⟨b, n, hread⟩ := readData_eq s
      simp only [rxBits, Ctrl.run, lineEvent, hread] at hrun
      exact (ih _).clockPulse { s with draws := n } a t hrest hrun
  exact fun s a t hrest => hbits lsbFirst 0#8 { s with dir := .input } a t hrest

/-! #### Register accesses and what is made of them -/

theorem readRegister_keepsControl (a : Byte) : (readRegister a).KeepsControl := by
  cases ha : bitOf a 0 with
  | true =>
    intro s b t hrest hrun
    have hctl := memRead_ctl a s
    rw [run_readRegister hrest ha, Except.ok.injEq] at hrun
    rwa [hrun] at hctl
  | false =>
    simp only [readRegister, ha]
    exact Ctrl.keepsControl_outsideContract _ _

theorem writeFrame_keepsControl {a : Byte} (ha : bitOf a 0 = false) (hne : a ≠ regWriteAddr .ctl) (v : Byte) :
    (writeFrame a v).KeepsControl := by
  intro s b t hrest hrun
  cases hp : writePlace a with
  | none => rw [run_writeFrame_unmapped hrest ha hp hrun, frameTicks_ctl]
  | some p =>
    rw [run_writeFrame hrest hp] at hrun
    cases hrun
    exact memWrite_ctl (fun hctl => hne (eq_regWriteAddr_ctl (hctl ▸ hp))) a v s

theorem atWriteAddress_keepsControl {α : Type} {a : Byte} {p : Ctrl α} (h : bitOf a 0 = false → p.KeepsControl) :
    (atWriteAddress a p).KeepsControl := by
  cases ha : bitOf a 0 with
  | true =>
    simp only [atWriteAddress, ha]
    exact Ctrl.keepsControl_outsideContract _ _
  | false =>
    rw [atWriteAddress_of_even ha]
    exact h ha

theorem writeRegister_keepsControl {a : Byte} (hne : a ≠ regWriteAddr .ctl) (v : Byte) :
    (writeRegister a v).KeepsControl :=
  atWriteAddress_keepsControl fun ha => writeFrame_keepsControl ha hne v

theorem writeProtected_keepsControl {a : Byte} (hne : a ≠ regWriteAddr .ctl) (v : Byte) :
    (writeProtected a v).KeepsControl :=
  (writeRegister_keepsControl (by decide) _).andThen (writeRegister_leads _ _) fun _ =>
    atWriteAddress_keepsControl fun ha => (writeFrame_keepsControl ha hne v).andThen (writeFrame_leads a v) fun _ =>
      writeFrame_keepsControl rfl (by decide) _

/-- What is made of accesses changes the Control register by a write to its address only. -/
theorem Ctrl.OfAccesses.keepsControl {A : Byte → Prop} (hA : ¬ A (regWriteAddr .ctl)) {α : Type} {p : Ctrl α}
    (h : p.OfAccesses A) : p.KeepsControl := by
  have hne : ∀ {a}, A a → a ≠ regWriteAddr .ctl := fun ha hctl => hA (hctl ▸ ha)
  induction h with
  | done a =>
    intro s b t _ hrun
    cases hrun
    rfl
  | andThen hp _ ihp ihf => exact ihp.andThen hp.leads ihf
  | transmit v => exact transmitByte_keepsControl v
  | receive => exact receiveByte_keepsControl
  | read a => exact readRegister_keepsControl a
  | write a v ha => exact writeRegister_keepsControl (hne ha) v
  | writeProtected a v ha => exact writeProtected_keepsControl (hne ha) v

end Sys2Proof.Machine

open Sys2Proof Sys2Proof.Machine

/-- Settles O49: a legal word is an operation of the controller, whose option is present, and such an operation answers
a flag only if it is a get or a snapshot. -/
theorem flagsFromGetsOnly : Obligations.FlagsFromGetsOnly := by
  intro s t w i hdecode hflags hexec
  obtain ⟨hrow, hoption⟩ := decodeOp_of_hostDecode hdecode
  obtain ⟨p, hp⟩ := operation_of_decodeOp hrow s.par
  rw [exec_of_operation hp] at hexec
  obtain ⟨r, u, hrun, rfl⟩ := perform_eq_next.1 hexec
  exact ((operation_rightStatus hp).run hrun).2 hflags hoption

/-- Settles O51: an operation that does not name the address of Control makes no write to it, and a bus command writes
at its own place only. -/
theorem controlOnlyByAddress : Obligations.ControlOnlyByAddress := by
  intro i s t hrest hexec hwrprot hwrreg hwrCtl
  have hA : ¬ MayWrite i (regWriteAddr .ctl) := by
    intro hmay
    obtain ⟨v, hi⟩ | ⟨v, hi⟩ := hmay rfl
    · exact hwrreg v hi
    · exact hwrprot v hi
  obtain ⟨p, r, u, hp, hrun, rfl⟩ | hp := exec_cases hexec
  · exact (operation_ofAccesses hp).keepsControl hA s r u hrest hrun
  · obtain ⟨a, v, p, -, rfl, hplace⟩ | ⟨a, v, n, rfl⟩ := busCommand_cases hp hexec
    · have hne : p ≠ .reg .ctl := by
        intro hctl
        obtain ⟨d, hi⟩ := hplace hctl
        exact hwrCtl d hi
      exact storeAt_ctl hne s.regs v
    · rfl
end

section
/-! PROOFS. The address map (O5) and the state after reset (O53, O55). -/

open Sys2Proof Sys2Proof.Machine

/-- Settles O5: each part is a finite table over the 256 addresses or the 31 slots. -/
theorem addressMap : Obligations.AddressMap := by
  refine ⟨by decide, by decide, by decide, by decide +kernel, fun a h => ?_, by decide, by decide⟩
  obtain ⟨p, hp⟩ := Option.isSome_iff_exists.1 h
  exact bitOf_of_writePlace hp

/-- Settles O53: no RAM cell is listed, no flag is set, no frame is open and the lines are low. -/
theorem soundAtReset : Obligations.SoundAtReset where
  ram := rfl
  status := by decide
  bus := ⟨fun _ => ⟨rfl, rfl⟩, by decide⟩
  lines := ⟨rfl, rfl⟩

/-- Settles O55: the values of 10_state.md R54 stand in `State.reset`. -/
theorem resetValues : Obligations.ResetValues := ⟨rfl, rfl, rfl, rfl, rfl, rfl, rfl, rfl, rfl⟩
end

section
/-! PROOFS. Accesses outside the contract (O10), and a read after a protected write (O21). -/

namespace Sys2Proof.Machine

/-! ### Writes outside the contract (20_memory.md R64, 47_device_target.md R224) -/

/-- At an odd address a write operation is refused, whatever its line events (20_memory.md R64). -/
theorem run_atWriteAddress_odd {α : Type} {a : Byte} (ha : bitOf a 0 = true) (p : Ctrl α) (s : State) :
    (atWriteAddress a p).run s = .error .writeToReadAddress := by
  rw [atWriteAddress, if_pos ha, Ctrl.run_outsideContract]

/-- An operation is refused where its first part is, whatever should follow. -/
theorem Ctrl.run_andThen_of_refused {α β : Type} {p : Ctrl α} (f : α → Ctrl β) {s : State} {r : Refusal}
    (h : p.run s = .error r) : (p.andThen f).run s = .error r := by
  rw [Ctrl.run_andThen, h]

/-- A device that listens refuses a write frame to an unmapped even address, at its last data bit
(47_device_target.md R218, R224). -/
theorem run_writeFrame_refused {a v : Byte} {s : State} (h : AtRest s) (hl : Listens s) (ha : bitOf a 0 = false)
    (hp : writePlace a = none) : (writeFrame a v).run s = .error .unmappedWrite := by
  have hl' : Listens (csRise (frameTicks s)) := by simpa using hl
  have hclk : (csRise (frameTicks s)).clk = false := by simpa using h.2
  have hdrv : (csRise (frameTicks s)).bus.drv = false := by rw [bus_frameBegun hl]
  rw [writeFrame, run_emit_csRise _ h,
    Ctrl.run_andThen_of_run _ (run_transmit_write hl' rfl hclk (by rw [bus_frameBegun hl]) hdrv ha)]
  refine Ctrl.run_andThen_of_refused _ ?_
  rw [run_transmit_data (by exact hl') rfl (by exact hclk) rfl (by exact hdrv) ha, devWrite, hp]

/-! ### What a frame leaves -/

@[simp] theorem memWrite_par (a v : Byte) (p : Place) (s : State) : (memWrite a v p s).par = s.par := by
  unfold memWrite
  split <;> simp
@[simp] theorem memWrite_ticks (a v : Byte) (p : Place) (s : State) : (memWrite a v p s).ticks = s.ticks.tail := by
  unfold memWrite
  split <;> simp

/-- A write frame to a device that listens is one `DevWrite` after its TICK steps (00_scope.md R12). -/
theorem memWrite_regs {s : State} (hl : Listens s) (a v : Byte) (p : Place) :
    (memWrite a v p s).regs = storeAt (frameTicks s).regs p v := by
  simp [memWrite, deviceListens_iff.2 hl]

/-- A write frame keeps the canonical form of the RAM. -/
theorem ramSound_memWrite {a : Byte} {p : Place} {s : State} (hl : Listens s) (hw : RamSound s)
    (hp : writePlace a = some p) (v : Byte) : RamSound (memWrite a v p s) := by
  rw [RamSound, memWrite_regs hl]
  exact wf_storeAt (by simpa using hw) hp v

/-- An accepted write frame leaves its byte at its place and every other place as its TICK steps left it
(47_device_target.md R221). -/
theorem placeRead_memWrite {p : Place} {s : State} (hl : Listens s) (hw : RamSound s) (h : accepts s.regs p = true)
    (a v : Byte) (q : Place) :
    placeRead (memWrite a v p s).regs q = if q = p then v else placeRead (frameTicks s).regs q := by
  have haccepts : accepts (frameTicks s).regs p = true := by simpa [accepts, locked] using h
  rw [memWrite_regs hl, placeRead_storeAt (by simpa using hw)]
  simp [haccepts]

/-- The unlock frame clears the latch, whatever it was (41_register_access.md R133). -/
theorem accepts_unlocked {s : State} (hl : Listens s) (p : Place) :
    accepts (memWrite (regWriteAddr .wp) wpUnlock (.reg .wp) s).regs p = true := by
  rw [memWrite_regs hl]
  have hunlocked : locked (storeAt (frameTicks s).regs (.reg .wp) wpUnlock) = false := by
    simp [locked, storeAt, accepts, placeWrite, regWrite, wpUnlock, bitOf]
  simp [accepts, hunlocked]

/-- A read frame of a mapped address answers the byte of its place, after its TICK steps (47_device_target.md R220). -/
theorem memRead_fst {a : Byte} {p : Place} {s : State} (h : Answers s) (hp : readPlace a = some p) :
    (memRead a s).1 = placeRead (frameTicks s).regs p := by
  simp [memRead, h, devRead, hp]

/-! ### A protected write and the read after it -/

@[simp] theorem memWriteProtected_par (a v : Byte) (p : Place) (s : State) :
    (memWriteProtected a v p s).par = s.par := by
  simp [memWriteProtected]
@[simp] theorem memWriteProtected_ticks (a v : Byte) (p : Place) (s : State) :
    (memWriteProtected a v p s).ticks = s.ticks.drop 3 := by
  simp [memWriteProtected, ← List.drop_one]

/-- With no TICK before the re-lock frame a protected write leaves its byte at its place; WP itself ends as
0x80, the re-lock (41_register_access.md R133). -/
theorem placeRead_memWriteProtected {a : Byte} {p : Place} {n : Nat} {s : State} (hl : Listens s) (hw : RamSound s)
    (hp : writePlace a = some p) (hq : quietFrom 2 (n + 1) s = true) (v : Byte) :
    placeRead (memWriteProtected a v p s).regs p = if p = .reg .wp then 0x80#8 else v := by
  set u := memWrite (regWriteAddr .wp) wpUnlock (.reg .wp) s with hu_def
  set w := memWrite a v p u with hw_def
  have hlu : Listens u := by simpa [hu_def] using hl
  have hru : RamSound u := ramSound_memWrite hl hw rfl wpUnlock
  have hlw : Listens w := by simpa [hw_def] using hlu
  have hrw : RamSound w := ramSound_memWrite hlu hru hp v
  have hwritten : placeRead w.regs p = v := by
    rw [hw_def, placeRead_memWrite hlu hru (accepts_unlocked hl p), if_pos rfl]
  have hquiet : frameTicks w = { w with ticks := w.ticks.tail } := by
    refine frameTicks_of_quiet (n := n) ?_
    simpa [quiet, quietFrom, hw_def, hu_def, ← List.drop_one] using hq
  rw [memWriteProtected, placeRead_memWrite hlw hrw rfl, hquiet]
  simp only [hwritten, wpLock]

/-- RDREG at a read address from rest: one read frame, the byte received in `RES[0]` (41_register_access.md R131). -/
theorem exec_rdreg {a : Byte} {s : State} (h : AtRest s) (ha : bitOf a 0 = true) :
    exec (.rdreg a) s = .next (respond (valueResult (zext16 (memRead a s).1)) (memRead a s).2) :=
  perform_eq_next.2 ⟨_, _, Ctrl.run_andThen_of_run _ (run_readRegister h ha), rfl⟩

/-- WRPROT at a mapped write address from rest: three frames and an empty response (41_register_access.md R133). -/
theorem exec_wrprot {a v : Byte} {p : Place} {s : State} (h : AtRest s) (hp : writePlace a = some p) :
    exec (.wrprot a v) s = .next (respond noResult (memWriteProtected a v p s)) :=
  perform_eq_next.2 ⟨_, _, Ctrl.run_andThen_of_run _ (run_writeProtected h hp), rfl⟩

end Sys2Proof.Machine

open Sys2Proof Sys2Proof.Machine

/-- Settles O10: an access with the wrong parity is refused by name, and a device that listens refuses the write frame
to an unmapped address, of a protected write the second. -/
theorem outOfContractRefused : Obligations.OutOfContractRefused := by
  refine ⟨fun a s ha => ?_, fun a v s ha => ?_, fun a v s h ha => ?_, fun a v s h hl ha hp => ?_,
    fun a v s h hl ha hp => ?_⟩
  all_goals refine perform_eq_refused.2 (Ctrl.run_andThen_of_refused _ ?_)
  · rw [readRegister, if_neg (by simp [ha]), Ctrl.run_outsideContract]
  · exact run_atWriteAddress_odd ha _ s
  · rw [writeProtected, Ctrl.run_andThen_of_run _ (run_writeRegister h rfl), run_atWriteAddress_odd ha]
  · rw [writeRegister, atWriteAddress_of_even ha, run_writeFrame_refused h hl ha hp]
  · rw [writeProtected, Ctrl.run_andThen_of_run _ (run_writeRegister h rfl), atWriteAddress_of_even ha]
    exact Ctrl.run_andThen_of_refused _
      (run_writeFrame_refused (atRest_memWrite _ _ _ h) (by simpa using hl) ha hp)

/-- Settles O21: the read address names the place written, and neither the re-lock frame nor a TICK changes the byte
before the read frame latches it. -/
theorem readAfterWrite : Obligations.ReadAfterWrite := by
  rintro a v p s ⟨hrest, hanswers⟩ hw hq hp
  have heven : bitOf a 0 = false := bitOf_of_writePlace hp
  have hodd : bitOf (a ||| 1#8) 0 = true := by simp [bitOf]
  obtain ⟨-, -, -, -, -, -, hsame⟩ := addressMap
  have hread : readPlace (a ||| 1#8) = some p := (hsame a heven).trans hp
  set t := respond noResult (memWriteProtected a v p s) with ht
  have hrest' : AtRest t := atRest_memWriteProtected a v p hrest
  have hanswers' : Answers t := by simpa [ht, Answers] using hanswers
  have hquiet : frameTicks t = { t with ticks := t.ticks.tail } := by
    refine frameTicks_of_quiet (n := 0) ?_
    simpa [quiet, ht] using quiet_tail hq
  refine ⟨t, _, exec_wrprot hrest hp, exec_rdreg hrest' hodd, ?_, rfl⟩
  have hbyte : (memRead (a ||| 1#8) t).1 = if p = .reg .wp then 0x80#8 else v := by
    rw [memRead_fst hanswers' hread, hquiet]
    exact placeRead_memWriteProtected hanswers.listens hw hp hq v
  rw [respond_res, hbyte]
  rfl
end

section
/-! PROOFS. Both formats' codecs (O1, O2), the legal host words (O3), the step that runs a decoded instruction (O7), and
the absent option (O42). -/

namespace Sys2Proof.Machine

/-! ### Fields of a command word (30_encoding.md R95)

Each row of the operation table uses its first operands and leaves the others zero. `wordOf_eq_iff` says what the fields
of such a word are; the decoder reads that equivalence one way and the encoder the other. -/

/-- The command word with the operands `as` in its first fields and zeros in the others. `word0`, `word1`, `word2` and
`hostWord` are this for a list of 0, 1, 2 and 7 operands. -/
def wordOf (op : Byte) (as : List Half) : CmdWord :=
  hostWord op (as.getD 0 0#16) (as.getD 1 0#16) (as.getD 2 0#16) (as.getD 3 0#16) (as.getD 4 0#16) (as.getD 5 0#16)
    (as.getD 6 0#16)

theorem operandOf_wordOf (op : Byte) (as : List Half) {k : Nat} (hk : k < 7) :
    operandOf (wordOf op as) k = as.getD k 0#16 := by
  unfold operandOf wordOf hostWord
  ext j hj
  simp only [BitVec.getElem_extractLsb', BitVec.getLsbD_or, BitVec.getLsbD_setWidth, BitVec.getLsbD_shiftLeft]
  interval_cases k <;> grind

/-- A command word is made of its opcode and its seven operands, and of nothing else. -/
theorem hostWord_fields (w : CmdWord) :
    hostWord (opcodeOf w) (operandOf w 0) (operandOf w 1) (operandOf w 2) (operandOf w 3) (operandOf w 4)
      (operandOf w 5) (operandOf w 6) = w := by
  unfold hostWord opcodeOf operandOf
  ext j hj
  simp only [BitVec.getElem_or, BitVec.getElem_setWidth, BitVec.getElem_shiftLeft, BitVec.getLsbD_extractLsb']
  grind

/-- The must-be-zero check over the unused operands, operand by operand: bit `j` of the checked field is bit `j % 16` of
operand `i + j / 16`. -/
theorem unusedFrom_iff {w : CmdWord} {i : Nat} (hi : i ≤ 7) :
    unusedFrom w i = true ↔ ∀ k, i ≤ k → k < 7 → operandOf w k = 0#16 := by
  simp only [unusedFrom, operandOf, beq_iff_eq]
  constructor
  · intro h k hk hk7
    ext j hj
    have hbit := congrArg (·.getLsbD (16 * (k - i) + j)) h
    grind
  · intro h
    ext j hj
    have hbit := congrArg (·.getLsbD (j % 16)) (h (i + j / 16) (by omega) (by omega))
    grind

theorem wordOf_eq_iff {w : CmdWord} {op : Byte} {as : List Half} (hlen : as.length ≤ 7) :
    wordOf op as = w ↔
      opcodeOf w = op ∧ (∀ k : Fin as.length, operandOf w k = as[k]) ∧ unusedFrom w as.length = true := by
  rw [unusedFrom_iff hlen]
  constructor
  · rintro rfl
    refine ⟨Laws.Encoding.opcodeOf_hostWord .., fun k => ?_, fun k hk hk7 => ?_⟩
    · rw [operandOf_wordOf op as (by omega), List.getD_eq_getElem, Fin.getElem_fin]
    · rw [operandOf_wordOf op as hk7, List.getD_eq_default as _ hk]
  · rintro ⟨hop, hused, hunused⟩
    have hget (k : Nat) (hk : k < 7) : as.getD k 0#16 = operandOf w k := by
      by_cases hlt : k < as.length
      · rw [List.getD_eq_getElem as _ hlt]
        exact (hused ⟨k, hlt⟩).symm
      · rw [hunused k (by omega) hk, List.getD_eq_default as _ (by omega)]
    rw [wordOf, hget 0 (by decide), hget 1 (by decide), hget 2 (by decide), hget 3 (by decide), hget 4 (by decide),
      hget 5 (by decide), hget 6 (by decide), ← hop, hostWord_fields]

theorem word0_eq_iff {w : CmdWord} {op : Byte} : word0 op = w ↔ opcodeOf w = op ∧ unusedFrom w 0 = true :=
  (wordOf_eq_iff (as := []) (by simp)).trans (by simp)

theorem word1_eq_iff {w : CmdWord} {op : Byte} {a0 : Half} :
    word1 op a0 = w ↔ opcodeOf w = op ∧ operandOf w 0 = a0 ∧ unusedFrom w 1 = true :=
  (wordOf_eq_iff (as := [a0]) (by simp)).trans (by simp)

theorem word2_eq_iff {w : CmdWord} {op : Byte} {a0 a1 : Half} :
    word2 op a0 a1 = w ↔ opcodeOf w = op ∧ operandOf w 0 = a0 ∧ operandOf w 1 = a1 ∧ unusedFrom w 2 = true :=
  (wordOf_eq_iff (as := [a0, a1]) (by simp)).trans (by simp [Fin.forall_fin_succ, and_assoc])

theorem hostWord_eq_iff {w : CmdWord} {op : Byte} {a0 a1 a2 a3 a4 a5 a6 : Half} :
    hostWord op a0 a1 a2 a3 a4 a5 a6 = w ↔ opcodeOf w = op ∧ operandOf w 0 = a0 ∧ operandOf w 1 = a1 ∧
      operandOf w 2 = a2 ∧ operandOf w 3 = a3 ∧ operandOf w 4 = a4 ∧ operandOf w 5 = a5 ∧ operandOf w 6 = a6 :=
  (wordOf_eq_iff (as := [a0, a1, a2, a3, a4, a5, a6]) (by simp)).trans (by simp [Fin.forall_fin_succ, unusedFrom])

/-- An operand carries a byte exactly when the decoder's check of its upper byte passes and its low byte is that byte. -/
theorem operandOf_eq_byteField_iff {w : CmdWord} {k : Nat} {b : Byte} :
    operandOf w k = byteField b ↔ upperByteZero w k = true ∧ byteOperandOf w k = b := by
  simp only [operandOf, byteField, upperByteZero, byteOperandOf, beq_iff_eq]
  constructor
  · intro h
    constructor <;> ext j hj
    · have hbit := congrArg (·.getLsbD (8 + j)) h
      grind
    · have hbit := congrArg (·.getLsbD j) h
      grind
  · rintro ⟨h, rfl⟩
    ext j hj
    have hbit := congrArg (·.getLsbD (j - 8)) h
    grind

theorem checkZero_eq_ok_iff {ok : Bool} {i j : Instr} : checkZero ok j = .ok i ↔ ok = true ∧ j = i := by
  cases ok <;> simp [checkZero]

/-! ### The operation table, both ways (30_encoding.md R96, R100) -/

/-- A word that decodes is the code of what it decodes to: its opcode is the row's and its must-be-zero bits are 0. -/
theorem encode_of_decodeOp {w : CmdWord} {i : Instr} (h : decodeOp w = .ok i) : encode i = .host w := by
  unfold decodeOp at h
  split at h
  case h_30 => cases h
  case h_25 hop | h_27 hop =>
    cases h
    exact congrArg Code.host (hostWord_eq_iff.2 ⟨hop, rfl, rfl, rfl, rfl, rfl, rfl, rfl⟩)
  all_goals
    obtain ⟨hzero, rfl⟩ := checkZero_eq_ok_iff.1 h
    refine congrArg Code.host ?_
  case h_1 hop | h_3 hop | h_6 hop | h_7 hop =>
    obtain ⟨hupper, hunused⟩ := Bool.and_eq_true_iff.1 hzero
    exact word1_eq_iff.2 ⟨hop, operandOf_eq_byteField_iff.2 ⟨hupper, rfl⟩, hunused⟩
  case h_4 hop | h_5 hop =>
    obtain ⟨hupper, hunused⟩ := Bool.and_eq_true_iff.1 hzero
    obtain ⟨hupper0, hupper1⟩ := Bool.and_eq_true_iff.1 hupper
    exact word2_eq_iff.2 ⟨hop, operandOf_eq_byteField_iff.2 ⟨hupper0, rfl⟩,
      operandOf_eq_byteField_iff.2 ⟨hupper1, rfl⟩, hunused⟩
  case h_29 hop =>
    obtain ⟨hupper, hunused⟩ := Bool.and_eq_true_iff.1 hzero
    exact word2_eq_iff.2 ⟨hop, rfl, operandOf_eq_byteField_iff.2 ⟨hupper, rfl⟩, hunused⟩
  case h_15 hop | h_16 hop | h_17 hop | h_18 hop | h_19 hop | h_20 hop | h_21 hop | h_28 hop =>
    exact word1_eq_iff.2 ⟨hop, rfl, hzero⟩
  all_goals exact word0_eq_iff.2 ⟨‹_›, hzero⟩

/-- The code of an operation decodes to it: the fields of its word pass the row's check. -/
theorem decodeOp_of_encode {w : CmdWord} {i : Instr} (h : encode i = .host w) : decodeOp w = .ok i := by
  cases i
  case setdt | setdtA =>
    obtain ⟨hop, ha0, ha1, ha2, ha3, ha4, ha5, ha6⟩ := hostWord_eq_iff.1 (Code.host.inj h)
    simp [decodeOp, hop, ha0, ha1, ha2, ha3, ha4, ha5, ha6]
  case txb | rdreg | d2b | b2d =>
    obtain ⟨hop, ha0, hunused⟩ := word1_eq_iff.1 (Code.host.inj h)
    simp [decodeOp, checkZero_eq_ok_iff, hop, operandOf_eq_byteField_iff.1 ha0, hunused]
  case wrreg | wrprot =>
    obtain ⟨hop, ha0, ha1, hunused⟩ := word2_eq_iff.1 (Code.host.inj h)
    simp [decodeOp, checkZero_eq_ok_iff, hop, operandOf_eq_byteField_iff.1 ha0, operandOf_eq_byteField_iff.1 ha1,
      hunused]
  case setram =>
    obtain ⟨hop, ha0, ha1, hunused⟩ := word2_eq_iff.1 (Code.host.inj h)
    simp [decodeOp, checkZero_eq_ok_iff, hop, ha0, operandOf_eq_byteField_iff.1 ha1, hunused]
  case setSec | setMin | setHr | setDay | setMon | setWday | setYr | getram =>
    obtain ⟨hop, ha0, hunused⟩ := word1_eq_iff.1 (Code.host.inj h)
    simp [decodeOp, checkZero_eq_ok_iff, hop, ha0, hunused]
  case rxb | getSec | getMin | getHr | getDay | getMon | getWday | getYr | start | stop | getdt | getdtA =>
    obtain ⟨hop, hunused⟩ := word0_eq_iff.1 (Code.host.inj h)
    simp [decodeOp, checkZero_eq_ok_iff, hop, hunused]
  all_goals cases h

theorem decodeOp_eq_ok_iff {w : CmdWord} {i : Instr} : decodeOp w = .ok i ↔ encode i = .host w :=
  ⟨encode_of_decodeOp, decodeOp_of_encode⟩

/-- The command port takes an operation of the table that is neither internal nor an absent option
(30_encoding.md R99, R101). -/
theorem hostDecode_eq_ok_iff {hasAtomicDT : Bool} {w : CmdWord} {i : Instr} :
    hostDecode hasAtomicDT w = .ok i ↔
      decodeOp w = .ok i ∧ i.isInternal = false ∧ (i.isOptional = true → hasAtomicDT = true) := by
  unfold hostDecode
  cases decodeOp w with
  | error r => simp
  | ok j =>
    simp only [Except.ok.injEq]
    constructor
    · intro h
      split_ifs at h with hinternal habsent
      cases h
      exact ⟨rfl, by simpa using hinternal, by simpa using habsent⟩
    · rintro ⟨rfl, hinternal, hoption⟩
      rw [if_neg (by simp [hinternal]), if_neg (by simpa using hoption)]

/-! ### Frames (30_encoding.md R90 to R93) -/

theorem dataByteOf_frameOf (c d : Byte) : dataByteOf (frameOf c d) = d := by
  unfold frameOf dataByteOf
  ext j hj
  grind

/-- A frame is made of its command byte and its data byte. -/
theorem frameOf_bytes (f : Frame) : frameOf (commandByteOf f) (dataByteOf f) = f := by
  unfold frameOf commandByteOf dataByteOf
  ext j hj
  grind

/-- A command byte with bits 7 and 6 set is made of those, its slot and its direction bit. -/
theorem ramCommand_fields {c : Byte} (h : c.extractLsb' 6 2 = 3#2) :
    ramCommand (c.extractLsb' 1 5) (c.extractLsb' 0 1) = c := by
  revert c
  decide

/-- The whole-byte match of the nine registers leaves the RAM commands to `decodeRamCommand`. -/
theorem decodeFrame_of_ramBits {f : Frame} (h : (commandByteOf f).extractLsb' 6 2 = 3#2) :
    decodeFrame f = decodeRamCommand (commandByteOf f) (dataByteOf f) := by
  unfold decodeFrame
  split
  case h_19 => rfl
  all_goals
    next hc =>
      rw [hc] at h
      exact absurd h (by decide)

/-- The last bit of a RAM command byte is its direction (30_encoding.md R92). -/
theorem bitOf_ramCommand (s : BitVec 5) (rd : BitVec 1) : bitOf (ramCommand s rd) 0 = decide (rd = 1#1) := by
  decide +revert

/-- A RAM command byte with an encodable slot decodes to the access its direction bit says. -/
theorem decodeRamCommand_ramCommand {s : BitVec 5} (hs : slotEncodable s = true) (rd : BitVec 1) (d : Byte) :
    decodeRamCommand (ramCommand s rd) d = .ok (if rd = 1#1 then .rdRam s else .wrRam s d) := by
  have hmode : (ramCommand s rd).extractLsb' 6 2 = 3#2 := by decide +revert
  have hslot : (ramCommand s rd).extractLsb' 1 5 = s := by decide +revert
  have hdir : (ramCommand s rd).getLsbD 0 = decide (rd = 1#1) := bitOf_ramCommand s rd
  simp only [decodeRamCommand, hmode, hslot, hs, hdir, decide_eq_true_eq, beq_self_eq_true, Bool.and_self, if_true]
  split_ifs <;> rfl

theorem decodeFrame_ramCommand {s : BitVec 5} (hs : slotEncodable s = true) (rd : BitVec 1) (d : Byte) :
    decodeFrame (frameOf (ramCommand s rd) d) = .ok (if rd = 1#1 then .rdRam s else .wrRam s d) := by
  rw [decodeFrame_of_ramBits, Laws.Encoding.commandByteOf_frameOf, dataByteOf_frameOf, decodeRamCommand_ramCommand hs]
  rw [Laws.Encoding.commandByteOf_frameOf]
  decide +revert

/-- What a RAM command byte can decode to, and that it is then that access's command byte. -/
theorem decodeRamCommand_cases {c d : Byte} {i : Instr} (h : decodeRamCommand c d = .ok i) :
    (∃ s, i = .rdRam s ∧ c = ramCommand s 1#1) ∨ (∃ s, i = .wrRam s d ∧ c = ramCommand s 0#1) := by
  simp only [decodeRamCommand] at h
  split_ifs at h with hram hread
  all_goals
    cases h
    rw [Bool.and_eq_true_iff, beq_iff_eq] at hram
    have hc := ramCommand_fields hram.1
  · have hdir : c.extractLsb' 0 1 = 1#1 := by decide +revert
    exact .inl ⟨_, rfl, by rw [← hdir, hc]⟩
  · have hdir : c.extractLsb' 0 1 = 0#1 := by decide +revert
    exact .inr ⟨_, rfl, by rw [← hdir, hc]⟩

/-- The code of a bus command decodes to it. -/
theorem decodeFrame_of_encode {f : Frame} {i : Instr} (hi : i.wellFormed = true) (h : encode i = .bus f) :
    decodeFrame f = .ok i := by
  cases i <;> cases h
  case wrRam s d => exact decodeFrame_ramCommand hi 0#1 d
  case rdRam s => exact decodeFrame_ramCommand hi 1#1 0#8
  all_goals simp [decodeFrame, Laws.Encoding.commandByteOf_frameOf, dataByteOf_frameOf]

/-- The frame `f` is the code of `i`, up to the data byte where its direction bit says that the device answers it
(30_encoding.md R90). -/
def EncodesFrame (i : Instr) (f : Frame) : Prop :=
  ∃ g, encode i = .bus g ∧ commandByteOf g = commandByteOf f ∧ (bitOf (commandByteOf f) 0 = false → g = f)

theorem encodesFrame_of_write {i : Instr} {f : Frame} {c : Byte} (hc : commandByteOf f = c)
    (hi : encode i = .bus (frameOf c (dataByteOf f))) : EncodesFrame i f := by
  rw [← hc, frameOf_bytes] at hi
  exact ⟨f, hi, rfl, fun _ => rfl⟩

theorem encodesFrame_of_read {i : Instr} {f : Frame} {c d : Byte} (hc : commandByteOf f = c) (hread : bitOf c 0 = true)
    (hi : encode i = .bus (frameOf c d)) : EncodesFrame i f := by
  refine ⟨_, hi, by rw [Laws.Encoding.commandByteOf_frameOf, hc], fun hwrite => ?_⟩
  rw [hc, hread] at hwrite
  cases hwrite

theorem encodesFrame_of_decodeFrame {f : Frame} {i : Instr} (h : decodeFrame f = .ok i) : EncodesFrame i f := by
  unfold decodeFrame at h
  split at h
  case h_19 =>
    obtain ⟨s, rfl, hc⟩ | ⟨s, rfl, hc⟩ := decodeRamCommand_cases h
    · exact encodesFrame_of_read hc (bitOf_ramCommand s 1#1) rfl
    · exact encodesFrame_of_write hc rfl
  all_goals cases h
  case h_1 hc | h_3 hc | h_5 hc | h_7 hc | h_9 hc | h_11 hc | h_13 hc | h_15 hc | h_17 hc =>
    exact encodesFrame_of_write hc rfl
  all_goals exact encodesFrame_of_read ‹_› rfl rfl

/-! ### The step around `exec` (log entries 8 to 10) -/

theorem step_of_idle {s : State} {x : Input} {rest : List Input} (hidle : s.seq = .idle) (hinbox : s.inbox = x :: rest) :
    step s = takeInput x { s with inbox := rest } := by
  simp only [step, hidle, stepIdle, hinbox]

theorem takeInput_host {s : State} {w : CmdWord} {i : Instr} (h : hostDecode s.par.hasAtomicDT w = .ok i) :
    takeInput (.host w) s = exec i s := by
  simp only [takeInput, hostCommand, h]

theorem takeInput_internal {s : State} {w : CmdWord} {i : Instr} (h : decodeOp w = .ok i) :
    takeInput (.internal w) s = exec i s := by
  simp only [takeInput, internalOperation, h]

theorem takeInput_frame {s : State} {f : Frame} {i : Instr} (h : decodeFrame f = .ok i) :
    takeInput (.frame f) s = exec i s := by
  simp only [takeInput, busFrame, h]

theorem instrOf?_eq_some_iff {r : Except Reject Instr} {i : Instr} : instrOf? r = some i ↔ r = .ok i := by
  cases r <;> simp [instrOf?]

/-- The input placed for a word that decodes is taken by executing what the word decodes to. -/
theorem takeInput_inputOfTableWord {s : State} {nbits w : Nat} {i : Instr} (h : decodeTableWord nbits w = some i)
    (hoption : i.isOptional = true → s.par.hasAtomicDT = true) :
    ∃ x, inputOfTableWord nbits w = some x ∧ takeInput x s = exec i s := by
  unfold decodeTableWord at h
  unfold inputOfTableWord
  cases hcode : codeOfTableWord nbits w with
  | error r => simp [hcode] at h
  | ok code =>
    simp only [hcode, instrOf?_eq_some_iff] at h
    cases code with
    | bus f => exact ⟨.frame f, rfl, takeInput_frame h⟩
    | host c =>
      have hrow : decodeOp c = .ok i := h
      simp only [hrow]
      cases hinternal : i.isInternal with
      | true => exact ⟨.internal c, rfl, takeInput_internal hrow⟩
      | false => exact ⟨.host c, rfl, takeInput_host (hostDecode_eq_ok_iff.2 ⟨hrow, hinternal, hoption⟩)⟩

/-! ### The absent option (log entry 14) -/

theorem perform_illegalResult (s : State) : perform (.done illegalResult) s = .next (refuseCommand s) := rfl

end Sys2Proof.Machine

open Sys2Proof Sys2Proof.Machine

/-- Settles O1: a code of either format has the fields its row's decoding asks for. -/
theorem decodeEncode : Obligations.DecodeEncode := fun i hi => by
  cases hcode : encode i with
  | host w => exact decodeOp_of_encode hcode
  | bus f => exact decodeFrame_of_encode hi hcode

/-- Settles O2: a word or frame is made of its fields, and the row it decodes as fixes each of them. -/
theorem oneMeaningPerWord : Obligations.OneMeaningPerWord :=
  ⟨fun _ _ => encode_of_decodeOp, fun _ _ => encodesFrame_of_decodeFrame⟩

/-- Settles O3: the word is the operation's code exactly when it decodes to it, and the port adds the two conditions. -/
theorem legalHostWords : Obligations.LegalHostWords := fun _ _ _ => by
  rw [hostDecode_eq_ok_iff, decodeOp_eq_ok_iff]

/-- Settles O7: an idle step takes the first input, and each kind of input executes what its word decodes to;
`withFetchWord` places the kind under which the word decodes. -/
theorem stepRunsDecoded : Obligations.StepRunsDecoded := by
  refine ⟨fun s w i rest hidle hinbox h => ?_, fun s w i rest hidle hinbox h => ?_,
    fun s f i rest hidle hinbox h => ?_, fun s hidle hinbox => ?_, fun s nbits w i h hoption => ?_⟩
  · exact (step_of_idle hidle hinbox).trans (takeInput_host h)
  · exact (step_of_idle hidle hinbox).trans (takeInput_internal h)
  · exact (step_of_idle hidle hinbox).trans (takeInput_frame h)
  · simp only [step, hidle, stepIdle, hinbox]
  · obtain ⟨x, hx, htake⟩ := takeInput_inputOfTableWord (s := { s with seq := .idle }) h hoption
    rw [State.withFetchWord, hx]
    exact (step_of_idle rfl rfl).trans htake

/-- Settles O42: with the option absent either operation has no line event and answers as an illegal word. -/
theorem absentOptionRefused : Obligations.AbsentOptionRefused := by
  refine fun s habsent => ⟨?_, fun y mo d w h mi sec => ?_⟩
  · rw [exec, execGetdtA, getdtAProg, habsent]
    exact perform_illegalResult s
  · rw [exec, execSetdtA, setdtAProg, habsent]
    exact perform_illegalResult s
end

section
/-! PROOFS. The serial bus driver's two operations, TXB and RXB, taken alone (O12, O13). -/

namespace Sys2Proof.Machine

/-! ### What the line events leave on DIR and DOUT -/

/-- DIR and DOUT after a line event (10_state.md R23, R24). -/
def drivenAfter (d : Dir × Bool) : LineEvent → Dir × Bool
  | .dir x => (x, d.2)
  | .dout b => (d.1, b)
  | _ => d

/-- The device's reaction to a line event leaves DIR and DOUT to the controller. -/
theorem lineEvent_driven {e : LineEvent} {s t : State} {b : Bool} (h : lineEvent e s = .ok (b, t)) :
    (t.dir, t.dout) = drivenAfter (s.dir, s.dout) e := by
  cases e with
  | cs c =>
    cases c with
    | true =>
      cases h
      by_cases hcs : s.cs = true <;> simp [hcs, drivenAfter]
    | false =>
      simp only [lineEvent] at h
      split at h
      · cases hfall : csFall s with
        | error r => simp [hfall] at h
        | ok u =>
          rw [hfall] at h
          cases h
          obtain ⟨d, n, rfl, -⟩ := csFall_eq hfall
          rfl
      · cases h
        rfl
  | clk c =>
    cases c with
    | true =>
      simp only [lineEvent] at h
      split at h
      · cases h
        rfl
      · cases hrise : clkRise s with
        | error r => simp [hrise] at h
        | ok u =>
          rw [hrise] at h
          cases h
          obtain ⟨d, n, r, rfl, -⟩ := clkRise_eq hrise
          rfl
    | false =>
      obtain ⟨d, hfall, -⟩ := clkFall_eq s
      cases h
      rw [hfall]
      split <;> rfl
  | dir d =>
    cases h
    rfl
  | dout c =>
    cases h
    rfl
  | sample =>
    obtain ⟨c, n, hread⟩ := readData_eq s
    rw [lineEvent, hread] at h
    cases h
    rfl

/-- DIR and DOUT at the end of a run are what the events of its bus trace make of them. -/
theorem Ctrl.run_driven {α : Type} {p : Ctrl α} {s t : State} {a : α} (h : p.run s = .ok (a, t)) :
    (t.dir, t.dout) = (p.trace s).foldl drivenAfter (s.dir, s.dout) := by
  induction p generalizing s with
  | done a =>
    cases h
    rfl
  | refuse r => cases h
  | outside r e k => cases h
  | event e k ih =>
    obtain ⟨b, u, he, hrest⟩ := Ctrl.run_event h
    have hgoOn : goOn e s = (b, u) := by rw [goOn, he]
    rw [Ctrl.trace, hgoOn, List.foldl_cons, ← lineEvent_driven he]
    exact ih b hrest

/-- What one byte's operation leaves on the lines: DIR and DOUT as its events `l` have them, CLK low and CS where it was
(40_serial_bus_driver.md R120). -/
theorem Ctrl.Emits.run_lines {α : Type} {p : Ctrl α} {l : List LineEvent} {s t : State} {a : α} {d : Dir} {o : Bool}
    (hemits : p.Emits l) (hleads : p.Leads (s.cs, false) (s.cs, false)) (hclk : s.clk = false)
    (hrun : p.run s = .ok (a, t)) (hl : l.foldl drivenAfter (s.dir, s.dout) = (d, o)) :
    p.trace s = l ∧ t.dir = d ∧ t.dout = o ∧ t.clk = false ∧ t.cs = s.cs := by
  obtain ⟨htrace, -⟩ := hemits s
  have hdriven : (t.dir, t.dout) = (d, o) := by rw [Ctrl.run_driven hrun, htrace, hl]
  rw [← hclk] at hleads
  have hlevels : (t.cs, t.clk) = (s.cs, s.clk) := hleads.run hrun
  obtain ⟨hdir, hdout⟩ := Prod.mk.inj hdriven
  obtain ⟨hcs, hclk'⟩ := Prod.mk.inj hlevels
  exact ⟨htrace, hdir, hdout, hclk'.trans hclk, hcs⟩

/-! ### A byte with CS low (47_device_target.md R211) -/

theorem run_emit_dir {α : Type} (d : Dir) (p : Ctrl α) (s : State) :
    (emit (.dir d) p).run s = p.run { s with dir := d } := rfl

theorem run_emit_dout {α : Type} (b : Bool) (p : Ctrl α) (s : State) :
    (emit (.dout b) p).run s = p.run { s with dout := b } := rfl

/-- With neither end driving, a sample of DATA is a draw (10_state.md R25). -/
theorem run_sample_floating {α : Type} (k : Bool → Ctrl α) {s : State} (hdir : s.dir = .input)
    (hdrv : s.bus.drv = false) :
    (Ctrl.event .sample k).run s = (k (Config.anyLevel s.draws)).run { s with draws := s.draws + 1 } := by
  simp [Ctrl.run, lineEvent, readData, deviceDrives, hdir, hdrv, drawLevel]

/-- At rest a transmitted byte moves DIR and DOUT only. -/
theorem run_transmit_atRest (v : Byte) {s : State} (h : AtRest s) :
    (transmitByte v).run s = .ok ((), { s with dir := .output, dout := bitOf v 7 }) := by
  simp [transmitByte, txBits, lsbFirst, run_emit_dir, run_emit_dout, run_clockPulse, AtRest, h, Ctrl.run]

/-- At rest, with the device not driving, a received byte is eight draws. -/
theorem run_receive_atRest {s : State} (h : AtRest s) (hdrv : s.bus.drv = false) :
    receiveByte.run s = .ok ((drawSamples s).1, { (drawSamples s).2 with dir := .input }) := by
  simp [receiveByte, rxBits, lsbFirst, run_emit_dir, run_sample_floating, run_clockPulse, AtRest, h, hdrv, Ctrl.run,
    drawSamples]

/-- The byte of eight draws has each draw at its own bit. -/
theorem bitOf_drawSamples (s : State) {i : Nat} (hi : i < 8) :
    bitOf (drawSamples s).1 i = Config.anyLevel (s.draws + i) := by
  simp only [drawSamples, lsbFirst, List.foldl_cons, List.foldl_nil, bitOf]
  interval_cases i <;> simp only [getLsbD_setBit, reduceIte, Nat.reduceLT, Nat.reduceEqDiff]

/-! ### The command byte of a frame, of either direction -/

/-- The command byte at the start of a frame: the device has it after eight edges, and no register has changed
(47_device_target.md R213, R214). -/
theorem run_transmit_command {a : Byte} {s : State} (hl : Listens s) (hcs : s.cs = true) (hclk : s.clk = false)
    (hcnt : s.bus.cnt = 0) (hdrv : s.bus.drv = false) :
    ∃ t, (transmitByte a).run s = .ok ((), t) ∧ t.regs = s.regs ∧ t.bus.cmd = a ∧ t.bus.cnt = 8 ∧
      t.ticks = s.ticks := by
  cases ha : bitOf a 0 with
  | false => exact ⟨_, run_transmit_write hl hcs hclk hcnt hdrv ha, rfl, rfl, rfl, rfl⟩
  | true =>
    obtain ⟨v, n, hread⟩ := devRead_eq s a
    exact ⟨_, run_transmit_read hl hcs hclk hcnt hdrv ha, by rw [hread], rfl, rfl, by rw [hread]⟩

/-! ### TXB and RXB as operations of their own (log entry 9) -/

/-- TXB answers with the empty response once its byte is sent. -/
theorem exec_txb {v : Byte} {s t : State} (h : (transmitByte v).run s = .ok ((), t)) :
    exec (.txb v) s = .next (respond noResult t) :=
  perform_eq_next.2 ⟨_, _, Ctrl.run_andThen_of_run _ h, rfl⟩

/-- RXB answers with the byte received in `RES[0]`. -/
theorem exec_rxb {r : Byte} {s t : State} (h : receiveByte.run s = .ok (r, t)) :
    exec .rxb s = .next (respond (valueResult (zext16 r)) t) :=
  perform_eq_next.2 ⟨_, _, Ctrl.run_andThen_of_run _ h, rfl⟩

end Sys2Proof.Machine

open Sys2Proof Sys2Proof.Machine

/-- Settles O12: the lines follow from the bus trace, and what the device makes of the byte from where it falls in a
frame. -/
theorem transmitByte : Obligations.TransmitByte := by
  refine ⟨fun v s t hclk hrun => ?_, fun v s hrest => exec_txb (run_transmit_atRest v hrest),
    fun v s hl hcs hclk hcnt hdrv => ?_, fun v p s hl hcs hclk hcnt hdrv _ hp => ?_, fun v => ⟨rfl, rfl⟩⟩
  · obtain ⟨htrace, hdir, hdout, hclk', hcs⟩ :=
      (transmitByte_emits v).run_lines (transmitByte_leads v s.cs) hclk hrun rfl
    exact ⟨htrace, rfl, hdir, hdout, hclk', hcs⟩
  · obtain ⟨t, hrun, hregs, hcmd, hcnt', hticks⟩ := run_transmit_command (a := v) hl hcs hclk hcnt hdrv
    have henv : SameEnvironment s t := Ctrl.run_sameEnvironment hrun
    exact ⟨_, exec_txb hrun, rfl, rfl, hregs, hcmd, hcnt', henv, hticks⟩
  · exact ⟨_, exec_txb (run_transmit_data_mapped hl hcs hclk hcnt hdrv hp), rfl, rfl, rfl, rfl, ⟨rfl, rfl, rfl⟩,
      rfl, rfl⟩

/-- Settles O13: the lines follow from the bus trace, and the byte from what drives DATA at the eight samples. -/
theorem receiveByte : Obligations.ReceiveByte := by
  refine ⟨fun s r t hclk hrun => ?_, fun s hl hcs hclk hcnt hdrv hd ha => ?_, fun s hrest hdrv => ?_, rfl, rfl⟩
  · obtain ⟨htrace, hdir, hdout, hclk', hcs⟩ := receiveByte_emits.run_lines (receiveByte_leads s.cs) hclk hrun rfl
    exact ⟨htrace, rfl, hdir, hclk', hcs, hdout⟩
  · exact ⟨_, exec_rxb (run_receive hl hcs hclk hcnt hdrv hd ha), rfl, rfl, rfl, hclk, hcs, rfl, rfl, rfl,
      ⟨rfl, rfl, rfl⟩, rfl, rfl⟩
  · exact ⟨(drawSamples s).1, fun i hi => bitOf_drawSamples s hi, exec_rxb (run_receive_atRest hrest hdrv)⟩
end

section
/-! PROOFS. Register access: the two levels agree (O15), and what RDREG, WRREG and WRPROT do (O18, O19, O20). -/

namespace Sys2Proof.Machine

/-! ### What a frame leaves in the register file -/

/-- A read frame changes no register: what its TICK steps left stays (47_device_target.md R220, R224). -/
theorem memRead_regs (a : Byte) (s : State) : (memRead a s).2.regs = (frameTicks s).regs := by
  obtain ⟨v, n, hread⟩ := devRead_eq (frameTicks s) a
  unfold memRead
  split <;> simp [hread]

/-- A read frame of an unmapped address is answered by a draw (47_device_target.md R224). -/
theorem memRead_fst_unmapped {a : Byte} {s : State} (h : Answers s) (hp : readPlace a = none) :
    (memRead a s).1 = Config.anyByte s.draws := by
  simp [memRead, h, devRead, hp]

/-- A write frame that a locked device rejects changes no register, and neither does one that reaches no device
(47_device_target.md R221). -/
theorem memWrite_regs_of_rejected {p : Place} {s : State} (h : accepts s.regs p = false) (a v : Byte) :
    (memWrite a v p s).regs = (frameTicks s).regs := by
  have hrejects : accepts (frameTicks s).regs p = false := by simpa [accepts, locked] using h
  unfold memWrite
  split <;> simp [storeAt, hrejects]

theorem accepts_eq_true_iff {d : RegFile} {p : Place} :
    accepts d p = true ↔ p = .reg .wp ∨ locked d = false := by
  simp [accepts]

/-- WRREG at a mapped write address from rest: one frame and an empty response (41_register_access.md R132). -/
theorem exec_wrreg {a v : Byte} {p : Place} {s : State} (h : AtRest s) (hp : writePlace a = some p) :
    exec (.wrreg a v) s = .next (respond noResult (memWrite a v p s)) :=
  perform_eq_next.2 ⟨_, _, Ctrl.run_andThen_of_run _ (run_writeRegister h hp), rfl⟩

/-! ### A protected write, whatever the latch was (41_register_access.md R133) -/

/-- The TICK steps before each of the next `n` frames leave the place `q` alone, whatever the registers hold. -/
def TicksKeep (n : Nat) (q : Place) (s : State) : Prop :=
  ∀ k < n, ∀ t : State, t.ticks = s.ticks.drop k → placeRead (frameTicks t).regs q = placeRead t.regs q

/-- Where the schedule is quiet, the TICK steps leave every place alone. -/
theorem ticksKeep_of_quiet {n : Nat} {s : State} (h : quiet n s = true) (q : Place) : TicksKeep n q s := by
  intro k hk t ht
  have hquiet : quiet 1 t = true := by
    rw [quiet, ht, List.all_eq_true]
    intro x hx
    rw [List.take_drop] at hx
    exact List.all_eq_true.1 h x (List.take_subset_take_left _ hk (List.mem_of_mem_drop hx))
  rw [frameTicks_of_quiet hquiet]

/-- A TICK step writes the calendar only (47_device_target.md R245). -/
theorem ticksKeep_of_notCalendar {q : Place} (hq : ∀ (d : RegFile) c, placeRead { d with cal := c } q = placeRead d q)
    (n : Nat) (s : State) : TicksKeep n q s := by
  intro _ _ t _
  obtain ⟨c, hticks⟩ := frameTicks_eq t
  rw [hticks]
  exact hq t.regs c

/-- A place that no TICK changes, after the three frames: WP holds the lock, the addressed place the byte, any other what
it held. -/
theorem placeRead_memWriteProtected_of_ticksKeep {a : Byte} {p q : Place} {s : State} (hl : Listens s) (hw : RamSound s)
    (hp : writePlace a = some p) (hq : TicksKeep 3 q s) (v : Byte) :
    placeRead (memWriteProtected a v p s).regs q =
      if q = .reg .wp then 0x80#8 else if q = p then v else placeRead s.regs q := by
  set u := memWrite (regWriteAddr .wp) wpUnlock (.reg .wp) s with hu_def
  set w := memWrite a v p u with hw_def
  have hlu : Listens u := by simpa [hu_def] using hl
  have hru : RamSound u := ramSound_memWrite hl hw rfl wpUnlock
  have hlw : Listens w := by simpa [hw_def] using hlu
  have hrw : RamSound w := ramSound_memWrite hlu hru hp v
  have hunlock := placeRead_memWrite hl hw (p := .reg .wp) rfl (regWriteAddr .wp) wpUnlock q
  have hwrite := placeRead_memWrite hlu hru (accepts_unlocked hl p) a v q
  rw [hq 0 (by decide) s rfl] at hunlock
  rw [hq 1 (by decide) u (by simp [hu_def])] at hwrite
  rw [memWriteProtected, placeRead_memWrite hlw hrw rfl, hq 2 (by decide) w (by simp [hw_def, hu_def, ← List.drop_one]),
    hwrite, hunlock]
  split <;> rfl

end Sys2Proof.Machine

open Sys2Proof Sys2Proof.Machine

/-- Settles O15: a run of a frame from rest is the transaction, whatever the lines lead to. -/
theorem levelsAgree : Obligations.LevelsAgree :=
  ⟨fun _ _ hrest ha => run_readRegister hrest ha, fun _ _ _ _ hrest hp => run_writeRegister hrest hp⟩

/-- Settles O18: the operation is its one read frame, which changes no register. -/
theorem readRegister : Obligations.ReadRegister := by
  intro a s hrest ha
  obtain ⟨hevents, -⟩ := lineEventsForEveryAddress
  have henv : SameEnvironment s (memRead a s).2 := Ctrl.run_sameEnvironment (run_readRegister hrest ha)
  exact ⟨hevents a s, rfl, exec_rdreg hrest ha, fun _ => memRead_fst, memRead_fst_unmapped, memRead_regs a s,
    atRest_memRead a hrest, henv⟩

/-- Settles O19: the operation is its one write frame, which the device accepts or rejects as a whole. -/
theorem writeRegister : Obligations.WriteRegister := by
  intro a v p s hrest hw hp
  obtain ⟨-, hevents, -⟩ := lineEventsForEveryAddress
  have henv : SameEnvironment s (memWrite a v p s) := Ctrl.run_sameEnvironment (run_writeRegister hrest hp)
  refine ⟨hevents a v s, rfl, rfl, _, exec_wrreg hrest hp, rfl, atRest_memWrite a v p hrest, henv,
    fun hl haccepts => ?_, fun hne hlocked => ?_⟩
  · exact placeRead_memWrite hl hw (accepts_eq_true_iff.2 haccepts) a v
  · refine memWrite_regs_of_rejected (Bool.eq_false_iff.2 fun haccepts => ?_) a v
    simp [accepts_eq_true_iff, hne, hlocked] at haccepts

/-- Settles O20: the unlock frame lets the write in, the re-lock frame locks again, and a TICK between them writes the
calendar only. -/
theorem writeProtected : Obligations.WriteProtected := by
  obtain ⟨-, -, hevents⟩ := lineEventsForEveryAddress
  obtain ⟨-, -, -, -, hrefused⟩ := outOfContractRefused
  refine ⟨fun a v p s hrest hw hp => ?_, fun a v s hrest hl ha hnone => hrefused a v s hrest hl ha hnone⟩
  have henv : SameEnvironment s (memWriteProtected a v p s) := Ctrl.run_sameEnvironment (run_writeProtected hrest hp)
  have hplaces : ∀ q, Listens s → TicksKeep 3 q s → placeRead (memWriteProtected a v p s).regs q =
      if q = .reg .wp then 0x80#8 else if q = p then v else placeRead s.regs q :=
    fun _ hl hq => placeRead_memWriteProtected_of_ticksKeep hl hw hp hq v
  refine ⟨hevents a v s, rfl, _, exec_wrprot hrest hp, rfl, atRest_memWriteProtected a v p hrest, henv,
    fun hl => ?_, fun hl hquiet => ⟨fun hne => ?_, fun q hne hwp => ?_⟩, fun hl => ?_, fun hl n => ?_⟩
  · exact hplaces (.reg .wp) hl (ticksKeep_of_notCalendar (fun _ _ => rfl) 3 s)
  · simpa [hne] using hplaces p hl (ticksKeep_of_quiet hquiet p)
  · simpa [hne, hwp] using hplaces q hl (ticksKeep_of_quiet hquiet q)
  · simpa [placeRead, regRead, eq_comm (a := p)] using hplaces (.reg .ctl) hl (ticksKeep_of_notCalendar (fun _ _ => rfl) 3 s)
  · simpa [placeRead, regRead, eq_comm (a := p)] using hplaces (.ram n) hl (ticksKeep_of_notCalendar (fun _ _ => rfl) 3 s)
end

section
/-! PROOFS. The counts over the bus trace of every operation (O17). -/

namespace Sys2Proof.Machine

/-! ### Counts over a bus trace put together (70_reset_and_hazards.md R310)

The number of transitions so far tells the level a trace has come to. An even number, which whole frames have, is a
return to the level it began at. -/

theorem framesIn_append (xs ys : List LineEvent) : framesIn (xs ++ ys) = framesIn xs + framesIn ys := List.count_append

theorem bytesIn_append (xs ys : List LineEvent) : bytesIn (xs ++ ys) = bytesIn xs + bytesIn ys := List.countP_append

theorem clkTransitions_append (l : Bool) (xs ys : List LineEvent) :
    clkTransitions l (xs ++ ys) = clkTransitions l xs + clkTransitions (l ^^ (clkTransitions l xs).bodd) ys := by
  induction xs generalizing l with
  | nil => simp [clkTransitions]
  | cons e xs ih =>
    cases e with
    | clk b => cases l <;> cases b <;> simp [clkTransitions, ih, Nat.add_assoc]
    | cs b | dir d | dout b | sample => exact ih l

theorem csTransitions_append (l : Bool) (xs ys : List LineEvent) :
    csTransitions l (xs ++ ys) = csTransitions l xs + csTransitions (l ^^ (csTransitions l xs).bodd) ys := by
  induction xs generalizing l with
  | nil => simp [csTransitions]
  | cons e xs ih =>
    cases e with
    | cs b => cases l <;> cases b <;> simp [csTransitions, ih, Nat.add_assoc]
    | clk b | dir d | dout b | sample => exact ih l

theorem isFrames_nil : IsFrames 0 [] := ⟨rfl, rfl, rfl, rfl, rfl⟩

theorem IsFrames.append {m n : Nat} {xs ys : List LineEvent} (hx : IsFrames m xs) (hy : IsFrames n ys) :
    IsFrames (m + n) (xs ++ ys) := by
  obtain ⟨hframes, hbytes, hclk, hcs, hlength⟩ := hx
  obtain ⟨hframes', hbytes', hclk', hcs', hlength'⟩ := hy
  refine ⟨?_, ?_, ?_, ?_, ?_⟩
  · rw [framesIn_append, hframes, hframes']
  · rw [bytesIn_append, hbytes, hbytes', Nat.mul_add]
  · have hlow : (false ^^ (32 * m).bodd) = false := by simp [Nat.bodd_mul]
    rw [clkTransitions_append, hclk, hlow, hclk', Nat.mul_add]
  · have hlow : (false ^^ (2 * m).bodd) = false := by simp [Nat.bodd_mul]
    rw [csTransitions_append, hcs, hlow, hcs', Nat.mul_add]
  · rw [List.length_append, hlength, hlength', Nat.mul_add]

/-- A byte of a frame, with CLK low before it and CS high: 16 transitions of CLK, none of CS, 25 line events, one of them
its direction event (40_serial_bus_driver.md R121, R122, R125). -/
def IsByte (tr : List LineEvent) : Prop :=
  framesIn tr = 0 ∧ bytesIn tr = 1 ∧ clkTransitions false tr = 16 ∧ csTransitions true tr = 0 ∧ tr.length = 25

theorem isByte_txEvents (v : Byte) : IsByte (txEvents v) :=
  ⟨List.count_eq_zero.2 (by simp [txEvents]), by simp [bytesIn, txEvents], by simp [txEvents, clkTransitions],
    by simp [txEvents, csTransitions], rfl⟩

theorem isByte_rxEvents : IsByte rxEvents := by
  unfold IsByte
  decide

/-- Two bytes between the edges of CS are a frame (41_register_access.md R136). -/
theorem IsByte.isFrames {xs ys : List LineEvent} (hx : IsByte xs) (hy : IsByte ys) :
    IsFrames 1 (.cs true :: (xs ++ ys ++ [.cs false])) := by
  obtain ⟨hframes, hbytes, hclk, hcs, hlength⟩ := hx
  obtain ⟨hframes', hbytes', hclk', hcs', hlength'⟩ := hy
  refine ⟨?_, ?_, ?_, ?_, ?_⟩
  · rw [framesIn, List.count_cons_self, ← framesIn, framesIn_append, framesIn_append, hframes, hframes']
    rfl
  · rw [bytesIn, List.countP_cons_of_neg (by simp), ← bytesIn, bytesIn_append, bytesIn_append, hbytes, hbytes']
    rfl
  · simp [clkTransitions, clkTransitions_append, hclk, hclk']
  · simp [csTransitions, csTransitions_append, hcs, hcs']
  · simp [hlength, hlength']

theorem isFrames_readEvents (a : Byte) : IsFrames 1 (readEvents a) := (isByte_txEvents a).isFrames isByte_rxEvents

theorem isFrames_writeEvents (a v : Byte) : IsFrames 1 (writeEvents a v) :=
  (isByte_txEvents a).isFrames (isByte_txEvents v)

/-! ### How many frames an operation makes -/

/-- In every state the controller comes to an answer, and its bus trace is `lo` to `hi` frames. -/
def Ctrl.MakesFrames {α : Type} (lo hi : Nat) (p : Ctrl α) : Prop :=
  ∀ s, (∃ n, lo ≤ n ∧ n ≤ hi ∧ IsFrames n (p.trace s)) ∧ ∃ x, p.finish s = some x

theorem Ctrl.makesFrames_done {α : Type} (a : α) : (Ctrl.done a).MakesFrames 0 0 := fun _ =>
  ⟨⟨0, le_rfl, le_rfl, isFrames_nil⟩, _, rfl⟩

theorem Ctrl.Emits.makesFrames {α : Type} {p : Ctrl α} {l : List LineEvent} {n : Nat} (h : p.Emits l)
    (hl : IsFrames n l) : p.MakesFrames n n := fun s => by
  obtain ⟨htrace, hfinish⟩ := h s
  exact ⟨⟨n, le_rfl, le_rfl, htrace ▸ hl⟩, hfinish⟩

theorem Ctrl.MakesFrames.mono {α : Type} {p : Ctrl α} {lo hi lo' hi' : Nat} (h : p.MakesFrames lo hi) (hlo : lo' ≤ lo)
    (hhi : hi ≤ hi') : p.MakesFrames lo' hi' := fun s => by
  obtain ⟨⟨n, hn, hn', hframes⟩, hfinish⟩ := h s
  exact ⟨⟨n, hlo.trans hn, hn'.trans hhi, hframes⟩, hfinish⟩

theorem Ctrl.MakesFrames.andThen {α β : Type} {p : Ctrl α} {f : α → Ctrl β} {lo hi lo' hi' : Nat}
    (hp : p.MakesFrames lo hi) (hf : ∀ a, (f a).MakesFrames lo' hi') :
    (p.andThen f).MakesFrames (lo + lo') (hi + hi') := fun s => by
  obtain ⟨⟨m, hm, hm', hframes⟩, x, hx⟩ := hp s
  obtain ⟨⟨n, hn, hn', hframes'⟩, y, hy⟩ := hf x.1 x.2
  refine ⟨⟨m + n, by omega, by omega, ?_⟩, y, ?_⟩
  · rw [Ctrl.trace_andThen, hx]
    exact hframes.append hframes'
  · rw [Ctrl.finish_andThen, hx, Option.bind_some, hy]

/-- Turning the answer into another one makes no frame. -/
theorem Ctrl.MakesFrames.andThen_done {α β : Type} {p : Ctrl α} {lo hi : Nat} (h : p.MakesFrames lo hi) (g : α → β) :
    (p.andThen fun a => .done (g a)).MakesFrames lo hi :=
  h.andThen fun a => Ctrl.makesFrames_done (g a)

theorem Ctrl.MakesFrames.isFrames {α : Type} {p : Ctrl α} {n : Nat} (h : p.MakesFrames n n) (s : State) :
    IsFrames n (p.trace s) := by
  obtain ⟨⟨m, hlo, hhi, hframes⟩, -⟩ := h s
  rwa [le_antisymm hhi hlo] at hframes

/-! #### Register accesses and what is made of them -/

theorem writeFrame_makesFrames (a v : Byte) : (writeFrame a v).MakesFrames 1 1 :=
  (writeFrame_emits a v).makesFrames (isFrames_writeEvents a v)

theorem readRegister_makesFrames {a : Byte} (ha : bitOf a 0 = true) : (readRegister a).MakesFrames 1 1 := by
  rw [readRegister, if_pos ha]
  exact (readFrame_emits a).makesFrames (isFrames_readEvents a)

theorem writeRegister_makesFrames {a : Byte} {p : Place} (hp : writePlace a = some p) (v : Byte) :
    (writeRegister a v).MakesFrames 1 1 := by
  rw [writeRegister, atWriteAddress_of_even (bitOf_of_writePlace hp)]
  exact writeFrame_makesFrames a v

/-- Unlock, write, re-lock (41_register_access.md R133). -/
theorem writeProtected_makesFrames {a : Byte} {p : Place} (hp : writePlace a = some p) (v : Byte) :
    (writeProtected a v).MakesFrames 3 3 := by
  rw [writeProtected, atWriteAddress_of_even (bitOf_of_writePlace hp)]
  exact (writeRegister_makesFrames rfl wpUnlock).andThen fun _ => (writeFrame_makesFrames a v).andThen fun _ =>
    writeFrame_makesFrames _ wpLock

theorem getField_makesFrames (f : Field) : (getField f).MakesFrames 1 1 :=
  (readRegister_makesFrames (bitOf_regReadAddr _)).andThen_done _

theorem setField_makesFrames (f : Field) (v : Half) : (setField f v).MakesFrames 3 3 :=
  writeProtected_makesFrames (writePlace_regWriteAddr _) _

theorem startOscillator_makesFrames : startOscillator.MakesFrames 4 4 :=
  (readRegister_makesFrames (bitOf_regReadAddr _)).andThen fun _ =>
  writeProtected_makesFrames (writePlace_regWriteAddr _) _

theorem stopOscillator_makesFrames : stopOscillator.MakesFrames 4 4 :=
  (readRegister_makesFrames (bitOf_regReadAddr _)).andThen fun _ =>
  writeProtected_makesFrames (writePlace_regWriteAddr _) _

theorem getDateTime_makesFrames : getDateTime.MakesFrames 7 7 :=
  (getField_makesFrames _).andThen fun _ => (getField_makesFrames _).andThen fun _ =>
  (getField_makesFrames _).andThen fun _ => (getField_makesFrames _).andThen fun _ =>
  (getField_makesFrames _).andThen fun _ => (getField_makesFrames _).andThen fun _ =>
  (getField_makesFrames _).andThen_done _

theorem setDateTime_makesFrames (y mo d w h mi s : Half) : (setDateTime y mo d w h mi s).MakesFrames 21 21 :=
  (setField_makesFrames _ _).andThen fun _ => (setField_makesFrames _ _).andThen fun _ =>
  (setField_makesFrames _ _).andThen fun _ => (setField_makesFrames _ _).andThen fun _ =>
  (setField_makesFrames _ _).andThen fun _ => (setField_makesFrames _ _).andThen fun _ => setField_makesFrames _ _

/-- The loop of GETDT.A reads one snapshot and at most `n` more (45_snapshot.md R193). -/
theorem rereadUntilEqual_makesFrames (n : Nat) (x : Snapshot) :
    (rereadUntilEqual n x).MakesFrames 7 (7 * (n + 1)) := by
  induction n generalizing x with
  | zero => exact getDateTime_makesFrames.andThen_done _
  | succ n ih =>
    have hrest (y : Snapshot) :
        (if y = x then .done (snapshotResult y false) else rereadUntilEqual n y).MakesFrames 0 (7 * (n + 1)) := by
      split
      · exact (Ctrl.makesFrames_done _).mono le_rfl (Nat.zero_le _)
      · exact (ih y).mono (Nat.zero_le _) le_rfl
    exact (getDateTime_makesFrames.andThen hrest).mono le_rfl (by omega)

theorem getdtAProg_makesFrames {par : Params} (h : par.hasAtomicDT = true) :
    (getdtAProg par).MakesFrames 14 (7 * (par.atomicRetryMax + 2)) := by
  rw [getdtAProg, if_pos h]
  exact (getDateTime_makesFrames.andThen (rereadUntilEqual_makesFrames _)).mono le_rfl (by omega)

theorem setdtAProg_makesFrames {par : Params} (h : par.hasAtomicDT = true) (y mo d w hr mi s : Half) :
    (setdtAProg par y mo d w hr mi s).MakesFrames 29 29 := by
  rw [setdtAProg, if_pos h]
  exact stopOscillator_makesFrames.andThen fun _ => (setDateTime_makesFrames _ _ _ _ _ _ _).andThen fun _ =>
    startOscillator_makesFrames.andThen_done _

end Sys2Proof.Machine

open Sys2Proof Sys2Proof.Machine

/-- Settles O17: an operation is made of whole frames, and its counts are the sums of theirs. -/
theorem frameCounts : Obligations.FrameCounts := by
  intro s _
  refine ⟨fun a ha => ?_, fun a v p hp => ⟨?_, ?_⟩, fun f => ?_, fun f v => ?_, ?_, ?_, ?_,
    fun y mo d w h mi sec => ?_, fun par y mo d w h mi sec hpar => ?_, fun par hpar => ?_, fun slot => ?_,
    fun slot v => ?_, fun _ => rfl, fun _ => rfl⟩
  · exact ((readRegister_makesFrames ha).andThen_done _).isFrames s
  · exact ((writeRegister_makesFrames hp v).andThen_done _).isFrames s
  · exact ((writeProtected_makesFrames hp v).andThen_done _).isFrames s
  · exact ((getField_makesFrames f).andThen_done _).isFrames s
  · exact ((setField_makesFrames f v).andThen_done _).isFrames s
  · exact (startOscillator_makesFrames.andThen_done _).isFrames s
  · exact (stopOscillator_makesFrames.andThen_done _).isFrames s
  · exact (getDateTime_makesFrames.andThen_done _).isFrames s
  · exact ((setDateTime_makesFrames y mo d w h mi sec).andThen_done _).isFrames s
  · exact (setdtAProg_makesFrames hpar y mo d w h mi sec).isFrames s
  · obtain ⟨hframes, -⟩ := getdtAProg_makesFrames hpar s
    exact hframes
  · exact ((readRegister_makesFrames (bitOf_ramReadAddr slot)).andThen_done _).isFrames s
  · exact ((writeProtected_makesFrames (writePlace_ramWriteAddr slot) v).andThen_done _).isFrames s
end

section
/-! PROOFS. The BCD codec (O22 to O24) and the widths of what the rules compute (O25). -/

namespace Sys2Proof.Machine

/-! ### The two formulas as a bijection of digit pairs (42_bcd_codec.md R140 to R143)

`decimalToBcd` puts the tens above the ones, so its quotient and remainder by 16 are those of its argument by 10. The
other facts about the codec follow from these two. -/

theorem decimalToBcd_div (n : Nat) : decimalToBcd n / 16 = n / 10 := by
  unfold decimalToBcd
  omega

theorem decimalToBcd_mod (n : Nat) : decimalToBcd n % 16 = n % 10 := by
  unfold decimalToBcd
  omega

/-- Decoding undoes the encoding, of a number of any size. -/
theorem bcdToDecimal_decimalToBcd (n : Nat) : bcdToDecimal (decimalToBcd n) = n := by
  rw [bcdToDecimal, decimalToBcd_div, decimalToBcd_mod]
  omega

theorem decimalToBcd_mono {m n : Nat} (h : m ≤ n) : decimalToBcd m ≤ decimalToBcd n := by
  unfold decimalToBcd
  omega

theorem bcdToDecimal_le (b : Byte) : bcdToDecimal b.toNat ≤ 165 := by
  unfold bcdToDecimal
  omega

theorem bcdValid_iff {b : Byte} : bcdValid b = true ↔ b.toNat / 16 ≤ 9 ∧ b.toNat % 16 ≤ 9 := by
  simp [bcdValid]

/-- Two digits fit a byte. -/
theorem toNat_ofNat_decimalToBcd {n : Nat} (h : n ≤ 99) : (BitVec.ofNat 8 (decimalToBcd n)).toNat = decimalToBcd n :=
  Nat.mod_eq_of_lt ((decimalToBcd_mono h).trans_lt (by decide))

/-- The byte of a two-digit number has its digits as nibbles. -/
theorem bcdValid_decimalToBcd {n : Nat} (h : n ≤ 99) : bcdValid (BitVec.ofNat 8 (decimalToBcd n)) = true := by
  rw [bcdValid_iff, toNat_ofNat_decimalToBcd h, decimalToBcd_div, decimalToBcd_mod]
  omega

/-- Encoding undoes the decoding of a valid byte: its low nibble is a digit, so nothing carries into the tens. -/
theorem decimalToBcd_bcdToDecimal {b : Byte} (h : bcdValid b = true) :
    decimalToBcd (bcdToDecimal b.toNat) = b.toNat := by
  obtain ⟨-, hones⟩ := bcdValid_iff.1 h
  unfold decimalToBcd bcdToDecimal
  omega

theorem bcdToDecimal_injOn_valid {b c : Byte} (hb : bcdValid b = true) (hc : bcdValid c = true)
    (h : bcdToDecimal b.toNat = bcdToDecimal c.toNat) : b = c :=
  BitVec.eq_of_toNat_eq (by rw [← decimalToBcd_bcdToDecimal hb, h, decimalToBcd_bcdToDecimal hc])

/-! ### The set-moduli and the post-steps (43_calendar_fields.md R150) -/

/-- Every set-modulus is at most 100, so a reduced operand has two digits (42_bcd_codec.md R144). -/
theorem mod_fieldMod_le (n : Nat) (f : Field) : n % fieldMod f ≤ 99 := by
  cases f <;> simp only [fieldMod] <;> omega

/-- A post-step adds at most 2000. -/
theorem fieldPost_le (f : Field) (d : Nat) : fieldPost f d ≤ d + 2000 := by
  cases f <;> simp only [fieldPost] <;> omega

/-! ### The codec's host words (30_encoding.md R99 step 2) -/

/-- A word of a row with one `u8` operand is illegal when the operand's upper byte is not zero. -/
theorem hostDecode_of_upperByte {hasAtomicDT : Bool} {w : CmdWord} {i : Instr}
    (hrow : decodeOp w = checkZero (upperByteZero w 0 && unusedFrom w 1) i) (hupper : upperByteZero w 0 = false) :
    hostDecode hasAtomicDT w = .error .mustBeZero := by
  rw [hupper] at hrow
  simp only [hostDecode, hrow, checkZero, Bool.false_and, Bool.false_eq_true, if_false]

end Sys2Proof.Machine

open Sys2Proof Sys2Proof.Machine

/-- Settles O22: the digits of the result are those of the operand, and 0x195 at most, so 16 bits hold it. -/
theorem decimalToBcd : Obligations.DecimalToBcd := by
  refine ⟨fun n s => ⟨_, ?_, rfl⟩, fun n h => ?_, fun n => ⟨rfl, fun _ => rfl⟩, fun b w hop hupper => ?_⟩
  · have hn : n.toNat ≤ 255 := Nat.le_of_lt_succ n.isLt
    exact Nat.mod_eq_of_lt ((decimalToBcd_mono hn).trans_lt (by decide))
  · exact ⟨decimalToBcd_div n, decimalToBcd_mod n, bcdValid_decimalToBcd h⟩
  · exact hostDecode_of_upperByte (i := .d2b (byteOperandOf w 0)) (by simp only [decodeOp, hop]) hupper

/-- Settles O23: the result is 165 at most, so 16 bits hold it; a valid byte can be had back from it. -/
theorem bcdToDecimal : Obligations.BcdToDecimal := by
  refine ⟨fun b s => ?_, fun b => ⟨rfl, fun _ => rfl⟩, fun b w hop hupper => ?_, rfl,
    fun b c => bcdToDecimal_injOn_valid⟩
  · have hr : (BitVec.ofNat 16 (Machine.bcdToDecimal b.toNat)).toNat = Machine.bcdToDecimal b.toNat :=
      Nat.mod_eq_of_lt ((bcdToDecimal_le b).trans_lt (by decide))
    exact ⟨_, hr, hr.trans_le (bcdToDecimal_le b), rfl⟩
  · exact hostDecode_of_upperByte (i := .b2d (byteOperandOf w 0)) (by simp only [decodeOp, hop]) hupper

/-- Settles O24: both ways of the round trip, and a remainder by any modulus has two digits. -/
theorem bcdLaws : Obligations.BcdLaws :=
  ⟨fun n _ => bcdToDecimal_decimalToBcd n, fun _ => decimalToBcd_bcdToDecimal,
    fun n => bcdValid_decimalToBcd (mod_fieldMod_le n .year), fun n f => bcdValid_decimalToBcd (mod_fieldMod_le n f)⟩

/-- Settles O25: each value is below the size of the word that holds it. -/
theorem widthsFit : Obligations.WidthsFit := by
  refine ⟨fun f v => toNat_ofNat_decimalToBcd (mod_fieldMod_le _ f), fun f b => ?_, fun slot => ?_,
    fun f v => mod_fieldMod_le _ f, fun b => ?_, fun n => ?_⟩
  · have hpost := fieldPost_le f (Machine.bcdToDecimal b.toNat)
    have hle := bcdToDecimal_le b
    exact Nat.mod_eq_of_lt (by omega)
  · have hmod : slot.toNat % 31 < 31 := Nat.mod_lt _ (by decide)
    have haddr : (ramReadAddr slot).toNat = 0xC0 + slot.toNat % 31 * 2 + 1 :=
      Nat.mod_eq_of_lt (by rw [ramSlot]; omega)
    exact ⟨haddr, by omega⟩
  · have hle := bcdToDecimal_le b
    omega
  · exact decimalToBcd_mono (Nat.le_of_lt_succ n.isLt)
end

section
/-! PROOFS. The calendar fields: what a get and a set of a field answer and leave (O26, O27), and the two laws of a set
with the get after it (O28). -/

namespace Sys2Proof.Machine

/-! ### A named register under write frames, in which the RAM plays no part -/

/-- What a write to a named register does to the named registers (47_device_target.md R221). -/
theorem regRead_storeAt (d : RegFile) (r q : Reg) (v : Byte) :
    regRead (storeAt d (.reg r) v) q = if q = r ∧ accepts d (.reg r) = true then v else regRead d q := by
  unfold storeAt
  split <;> simp_all [placeWrite]

/-- An accepted write frame leaves its byte in its register and every other named register as its TICK steps left it. -/
theorem regRead_memWrite {r : Reg} {s : State} (hl : Listens s) (h : accepts s.regs (.reg r) = true) (a v : Byte)
    (q : Reg) :
    regRead (memWrite a v (.reg r) s).regs q = if q = r then v else regRead (frameTicks s).regs q := by
  have haccepts : accepts (frameTicks s).regs (.reg r) = true := by simpa [accepts, locked] using h
  rw [memWrite_regs hl, regRead_storeAt]
  simp [haccepts]

/-- A write to a named register leaves the RAM alone, accepted or not. -/
theorem storeAt_ram (d : RegFile) (r : Reg) (v : Byte) : (storeAt d (.reg r) v).ram = d.ram := by
  unfold storeAt
  split
  · exact regWrite_ram d r v
  · rfl

theorem memWrite_ram (a v : Byte) (r : Reg) (s : State) : (memWrite a v (.reg r) s).regs.ram = s.regs.ram := by
  unfold memWrite
  split <;> simp [storeAt_ram]

/-- A protected write to a named register leaves the RAM alone, whatever the lines lead to. -/
theorem memWriteProtected_ram (a v : Byte) (r : Reg) (s : State) :
    (memWriteProtected a v (.reg r) s).regs.ram = s.regs.ram := by
  simp only [memWriteProtected, memWrite_ram]

/-- A protected write at another place leaves the Control register alone, whatever the lines lead to. -/
theorem memWriteProtected_ctl {p : Place} (hp : p ≠ .reg .ctl) (a v : Byte) (s : State) :
    (memWriteProtected a v p s).regs.ctl = s.regs.ctl := by
  rw [memWriteProtected, memWrite_ctl (by decide), memWrite_ctl hp, memWrite_ctl (by decide)]

/-- With no TICK before the re-lock frame a protected write leaves its byte in the register it addresses
(41_register_access.md R133). -/
theorem regRead_memWriteProtected {r : Reg} {n : Nat} {s : State} (hl : Listens s) (hr : r ≠ .wp)
    (hq : quietFrom 2 (n + 1) s = true) (a v : Byte) :
    regRead (memWriteProtected a v (.reg r) s).regs r = v := by
  set u := memWrite (regWriteAddr .wp) wpUnlock (.reg .wp) s with hu
  set w := memWrite a v (.reg r) u with hw
  have hlu : Listens u := by simpa [hu] using hl
  have hlw : Listens w := by simpa [hw] using hlu
  have hwritten : regRead w.regs r = v := by
    rw [hw, regRead_memWrite hlu (accepts_unlocked hl (.reg r)), if_pos rfl]
  have hquiet : frameTicks w = { w with ticks := w.ticks.tail } := by
    refine frameTicks_of_quiet (n := n) ?_
    simpa [quiet, quietFrom, hw, hu, ← List.drop_one] using hq
  rw [memWriteProtected, regRead_memWrite hlw rfl, if_neg hr, hquiet, hwritten]

/-! ### The fields' registers and addresses (43_calendar_fields.md R150) -/

theorem fieldReg_ne_wp (f : Field) : fieldReg f ≠ .wp := by cases f <;> decide

theorem fieldReg_ne_ctl (f : Field) : fieldReg f ≠ .ctl := by cases f <;> decide

/-- The read address of a named register names it (10_state.md R40). -/
theorem readPlace_regReadAddr (r : Reg) : readPlace (regReadAddr r) = some (.reg r) := by cases r <;> rfl

/-! ### Gets and sets from rest -/

/-- GET.f is one read frame and the response of the byte received (43_calendar_fields.md R150). -/
theorem exec_getInstr (f : Field) {s : State} (h : AtRest s) :
    exec (getInstr f) s = .next (respond (getResult (memGet f s).1.1 (memGet f s).1.2) (memGet f s).2) := by
  have hget : (getField f).run s = .ok (memGet f s) :=
    Ctrl.run_andThen_of_run _ (run_readRegister h (bitOf_regReadAddr (fieldReg f)))
  have hexec : exec (getInstr f) s = perform (getProg f) s := by cases f <;> rfl
  rw [hexec]
  exact perform_eq_next.2 ⟨_, _, Ctrl.run_andThen_of_run _ hget, rfl⟩

/-- A get from a device that answers gets the byte of the field's register, after the frame's TICK steps. -/
theorem memGet_fst {f : Field} {s : State} (h : Answers s) :
    (memGet f s).1 = (fieldValue f (regRead (frameTicks s).regs (fieldReg f)),
      decodeErr f (regRead (frameTicks s).regs (fieldReg f))) := by
  rw [memGet, memRead_fst h (readPlace_regReadAddr (fieldReg f)), placeRead]

/-- SET.f is WRPROT of the field's register with the reduced, encoded operand (43_calendar_fields.md R150). -/
theorem exec_setInstr (f : Field) (v : Half) (s : State) :
    exec (setInstr f v) s = exec (.wrprot (regWriteAddr (fieldReg f)) (fieldByte f v)) s := by
  cases f <;> rfl

/-! ### The decode-error check (60_exceptions.md R251) -/

theorem decodeErr_iff {f : Field} {b : Byte} :
    decodeErr f b = true ↔ 9 < b.toNat / 16 ∨ 9 < b.toNat % 16 ∨ fieldMax f < bcdToDecimal b.toNat := by
  simp [decodeErr, bcdValid, or_assoc]

/-- A get raises no flag but `DERR[0]` (10_state.md R29). -/
theorem getResult_status (v : Half) (err : Bool) : (getResult v err).status = if err = true then 1#16 else 0#16 := by
  cases err <;> rfl

/-! ### A field set and read back (43_calendar_fields.md R165, R167) -/

/-- Reducing by the set-modulus brings an operand into the field's valid range. -/
theorem mod_fieldMod_le_fieldMax (n : Nat) (f : Field) : n % fieldMod f ≤ fieldMax f := by
  cases f <;> simp only [fieldMod, fieldMax] <;> omega

/-- An operand in the valid range is not changed by the reduction. -/
theorem mod_fieldMod_of_le {n : Nat} {f : Field} (h : n ≤ fieldMax f) : n % fieldMod f = n := by
  refine Nat.mod_eq_of_lt (h.trans_lt ?_)
  cases f <;> decide

/-- The byte a set writes decodes to the reduced operand. -/
theorem bcdToDecimal_fieldByte (f : Field) (v : Half) :
    bcdToDecimal (fieldByte f v).toNat = v.toNat % fieldMod f := by
  rw [fieldByte, toNat_ofNat_decimalToBcd (mod_fieldMod_le _ f), bcdToDecimal_decimalToBcd]

/-- A set writes no byte that a get calls an error. -/
theorem decodeErr_fieldByte (f : Field) (v : Half) : decodeErr f (fieldByte f v) = false := by
  have hvalid : bcdValid (fieldByte f v) = true := bcdValid_decimalToBcd (mod_fieldMod_le _ f)
  simp [decodeErr, hvalid, bcdToDecimal_fieldByte, mod_fieldMod_le_fieldMax]

/-- The post-step of a reduced operand: the second is reduced already, and the century of the year is restored. -/
theorem fieldPost_mod (f : Field) (n : Nat) :
    fieldPost f (n % fieldMod f) = if f = .year then 2000 + n % 100 else n % fieldMod f := by
  cases f
  case second => exact Nat.mod_mod n 60
  case year => exact Nat.add_comm _ _
  all_goals rfl

/-- What a get answers for the byte a set wrote. -/
theorem toNat_fieldValue_fieldByte (f : Field) (v : Half) :
    (fieldValue f (fieldByte f v)).toNat = if f = .year then 2000 + v.toNat % 100 else v.toNat % fieldMod f := by
  have hle := fieldPost_le f (v.toNat % fieldMod f)
  have hmod := mod_fieldMod_le v.toNat f
  rw [fieldValue, bcdToDecimal_fieldByte, ← fieldPost_mod]
  exact Nat.mod_eq_of_lt (by omega)

/-- SET.f, then GET.f with no TICK after the write: the get answers for the byte the set wrote. -/
theorem exec_setInstr_then_getInstr {f : Field} {v : Half} {s : State} (hs : Ready s) (hq : quietFrom 2 2 s = true) :
    ∃ t u, exec (setInstr f v) s = .next t ∧ exec (getInstr f) t = .next u ∧
      u.status = 0#16 ∧ u.res.r0 = fieldValue f (fieldByte f v) := by
  obtain ⟨hrest, hanswers⟩ := hs
  set t := respond noResult
    (memWriteProtected (regWriteAddr (fieldReg f)) (fieldByte f v) (.reg (fieldReg f)) s) with ht
  have hset : exec (setInstr f v) s = .next t :=
    (exec_setInstr f v s).trans (exec_wrprot hrest (writePlace_regWriteAddr (fieldReg f)))
  have hbyte : regRead t.regs (fieldReg f) = fieldByte f v :=
    regRead_memWriteProtected hanswers.listens (fieldReg_ne_wp f) hq _ _
  have hquiet : frameTicks t = { t with ticks := t.ticks.tail } := by
    refine frameTicks_of_quiet (n := 0) ?_
    simpa [quiet, ht] using quiet_tail hq
  have hget : (memGet f t).1 = (fieldValue f (fieldByte f v), false) := by
    rw [memGet_fst (by simpa [ht, Answers] using hanswers), hquiet, hbyte, decodeErr_fieldByte]
  refine ⟨t, _, hset, exec_getInstr f (atRest_memWriteProtected _ _ _ hrest), ?_, ?_⟩
  · rw [respond_status, hget, getResult_status]
    rfl
  · rw [respond_res, hget]
    rfl

end Sys2Proof.Machine

open Sys2Proof Sys2Proof.Machine

/-- Settles O26: the operation is its one read frame, and the response is that of the byte the frame received. -/
theorem getField : Obligations.GetField := by
  intro f s hrest
  have hodd : bitOf (regReadAddr (fieldReg f)) 0 = true := bitOf_regReadAddr (fieldReg f)
  have hevents : (getProg f).trace s = readEvents (regReadAddr (fieldReg f)) :=
    (Ctrl.trace_andThen_done _ _ s).trans ((Ctrl.trace_andThen_done _ _ s).trans (readRegister_trace _ s))
  have henv : SameEnvironment s (memRead (regReadAddr (fieldReg f)) s).2 :=
    Ctrl.run_sameEnvironment (run_readRegister hrest hodd)
  refine ⟨hevents, _, exec_getInstr f hrest, rfl, fun hanswers => ?_, memRead_regs _ s, atRest_memRead _ hrest, henv, ?_⟩
  · rw [respond_res, respond_status, memGet_fst hanswers, getResult_status]
    exact ⟨rfl, if_congr decodeErr_iff rfl rfl⟩
  · cases f <;> rfl

/-- Settles O27: the operation is the protected write of the field's register, which is neither WP nor CTL nor RAM. -/
theorem setField : Obligations.SetField := by
  intro f v s hrest hw
  have hplace := writePlace_regWriteAddr (fieldReg f)
  obtain ⟨hwrprot, -⟩ : Obligations.WriteProtected := writeProtected
  obtain ⟨hevents, -, t, hexec, ht, hrest', henv, hwp, hquiet, -, -⟩ := hwrprot _ (fieldByte f v) _ s hrest hw hplace
  have hne : Place.reg (fieldReg f) ≠ .reg .wp := by simpa using fieldReg_ne_wp f
  have hctl : t.regs.ctl = s.regs.ctl := by
    rw [ht, respond_regs, memWriteProtected_ctl (by simpa using fieldReg_ne_ctl f)]
  have hram : t.regs.ram = s.regs.ram := by rw [ht, respond_regs, memWriteProtected_ram]
  refine ⟨hevents, t, (exec_setInstr f v s).trans hexec, ht, hwp, hctl, hram, hrest', henv, fun hl hq => ?_, ?_⟩
  · obtain ⟨hbyte, hsame⟩ := hquiet hl hq
    exact ⟨hbyte hne, hsame⟩
  · cases f <;> rfl

/-- Settles O28: the get decodes the byte the set wrote, and within its documented range an operand is what it is
reduced to. -/
theorem setThenGet : Obligations.SetThenGet := by
  intro f v s hs hq
  obtain ⟨t, u, hset, hget, hstatus, hvalue⟩ := exec_setInstr_then_getInstr (f := f) (v := v) hs hq
  have hnat := toNat_fieldValue_fieldByte f v
  rw [← hvalue] at hnat
  refine ⟨t, u, hset, hget, hstatus, hnat, fun hf hle => ?_, fun hf hlo hhi => ?_⟩
  · exact BitVec.eq_of_toNat_eq (by rw [hnat, if_neg hf, mod_fieldMod_of_le hle])
  · exact BitVec.eq_of_toNat_eq (by rw [hnat, if_pos hf]; omega)
end

section
/-! PROOFS. Oscillator control: what START and STOP do (O32), and the law of the pair (O33). -/

namespace Sys2Proof.Machine

/-! ### TICK and the clock-halt bit (47_device_target.md R245, R246) -/

/-- A BCD byte below 80 has bit 7 clear: its upper digit is below 8. -/
theorem bitOf_bcdByte {n : Nat} (h : n < 80) : bitOf (bcdByte n) 7 = false := by
  have hlt : decimalToBcd n < 2 ^ 7 := by
    unfold decimalToBcd
    omega
  rw [bitOf, bcdByte, BitVec.getLsbD_ofNat, Nat.testBit_lt_two_pow hlt, Bool.and_false]

/-- The open `tick_next` clears the clock-halt bit of whatever it answers (47_device_target.md R246 (a)). -/
theorem bitOf_openTick_sec (c : Calendar) : bitOf (openTick c).sec 7 = false :=
  (getLsbD_setBit (Config.tickNext c).sec 7 7 false (by decide) (by decide)).trans (if_pos rfl)

/-- The reference `tick_next` counts the seconds up to 59 only, or is the open one (47_device_target.md R247). -/
theorem bitOf_refTick_sec (c : Calendar) : bitOf (refTick c).sec 7 = false := by
  unfold refTick
  split
  · dsimp only
    split
    · exact bitOf_bcdByte (by omega)
    · have hzero : bitOf 0#8 7 = false := by decide
      split
      · exact hzero
      · split <;> exact hzero
  · exact bitOf_openTick_sec c

/-- No TICK sets the clock-halt bit. -/
theorem bitOf_tickCalendar_sec (k : TickNext) (c : Calendar) : bitOf (tickCalendar k c).sec 7 = false := by
  cases k with
  | anyFunction => exact bitOf_openTick_sec c
  | reference => exact bitOf_refTick_sec c

/-- A TICK neither halts the clock nor lets it run. -/
@[simp] theorem halted_regsTick (k : TickNext) (d : RegFile) : halted (regsTick k d) = halted d := by
  cases h : halted d with
  | true => rw [regsTick_of_halted k h, h]
  | false =>
    rw [regsTick_of_running k h]
    exact bitOf_tickCalendar_sec k d.cal

@[simp] theorem halted_tickTimes (n : Nat) (s : State) : halted (tickTimes n s).regs = halted s.regs := by
  induction n generalizing s with
  | zero => rfl
  | succ n ih => rw [tickTimes, ih, tick_regs, halted_regsTick]

/-- The clock-halt bit after the TICK steps before a frame is the one before them, however many fall. -/
@[simp] theorem halted_frameTicks (s : State) : halted (frameTicks s).regs = halted s.regs := by
  unfold frameTicks
  split
  · rfl
  · rw [halted_tickTimes]

/-! ### A read frame before which no TICK falls -/

@[simp] theorem memRead_par (a : Byte) (s : State) : (memRead a s).2.par = s.par := by
  unfold memRead
  split <;> simp

@[simp] theorem memRead_ticks (a : Byte) (s : State) : (memRead a s).2.ticks = s.ticks.tail := by
  obtain ⟨v, n, hread⟩ := devRead_eq (frameTicks s) a
  unfold memRead
  split <;> simp [hread]

theorem frameTicks_regs_of_quiet {n : Nat} {s : State} (h : quiet (n + 1) s = true) : (frameTicks s).regs = s.regs := by
  rw [frameTicks_of_quiet h]

theorem frameTicks_regs_of_halted {s : State} (h : halted s.regs = true) : (frameTicks s).regs = s.regs := by
  rw [frameTicks_of_halted h]

/-- The byte read is the register's own where the TICK steps before the frame changed nothing. -/
theorem memRead_fst_of_still {r : Reg} {s : State} (h : Answers s) (hstill : (frameTicks s).regs = s.regs) :
    (memRead (regReadAddr r) s).1 = regRead s.regs r := by
  rw [memRead_fst h (readPlace_regReadAddr r), hstill, placeRead]

/-! ### A protected write of the seconds (44_oscillator_control.md R184) -/

/-- The re-lock frame of a protected write leaves WP locked (41_register_access.md R133). -/
theorem memWriteProtected_wp {s : State} (hl : Listens s) (a v : Byte) (p : Place) :
    (memWriteProtected a v p s).regs.wp = 0x80#8 :=
  regRead_memWrite (r := .wp) (by simpa using hl) rfl _ _ .wp

/-- The last two frames of a protected write to a named register: the byte is stored, and then only the TICK steps
before the re-lock frame can change it. -/
theorem regRead_memWriteProtected_relock {r : Reg} {s : State} (hl : Listens s) (hr : r ≠ .wp) (a v : Byte) :
    ∃ w, regRead w.regs r = v ∧
      regRead (memWriteProtected a v (.reg r) s).regs r = regRead (frameTicks w).regs r := by
  have hlu : Listens (memWrite (regWriteAddr .wp) wpUnlock (.reg .wp) s) := by simpa using hl
  refine ⟨memWrite a v (.reg r) (memWrite (regWriteAddr .wp) wpUnlock (.reg .wp) s), ?_, ?_⟩
  · rw [regRead_memWrite hlu (accepts_unlocked hl (.reg r)), if_pos rfl]
  · rw [memWriteProtected, regRead_memWrite (by simpa using hlu) rfl, if_neg hr]

/-- A protected write of the seconds sets the clock-halt bit to bit 7 of its byte, however the TICK steps fall. -/
theorem halted_memWriteProtected {s : State} (hl : Listens s) (a v : Byte) :
    halted (memWriteProtected a v (.reg .sec) s).regs = bitOf v 7 := by
  obtain ⟨w, hwritten, hrelock⟩ := regRead_memWriteProtected_relock (r := .sec) hl (by decide) a v
  calc halted (memWriteProtected a v (.reg .sec) s).regs
      = halted (frameTicks w).regs := congrArg (bitOf · 7) hrelock
    _ = halted w.regs := halted_frameTicks w
    _ = bitOf v 7 := congrArg (bitOf · 7) hwritten

/-- A byte that halts the clock stays in the seconds register: no TICK falls after its write. -/
theorem sec_memWriteProtected_of_halting {v : Byte} {s : State} (hl : Listens s) (hv : bitOf v 7 = true) (a : Byte) :
    (memWriteProtected a v (.reg .sec) s).regs.cal.sec = v := by
  obtain ⟨w, hwritten, hrelock⟩ := regRead_memWriteProtected_relock (r := .sec) hl (by decide) a v
  have hhalted : halted w.regs = true := (congrArg (bitOf · 7) hwritten).trans hv
  rw [frameTicks_regs_of_halted hhalted, hwritten] at hrelock
  exact hrelock

/-! ### The read-modify-write of the seconds that START and STOP are (44_oscillator_control.md R180) -/

/-- Read the seconds register and write `f` of its byte back, protected: START clears bit 7 so, STOP sets it. -/
def updateSeconds (f : Byte → Byte) : Ctrl Unit :=
  (readRegister (regReadAddr .sec)).andThen fun t => writeProtected (regWriteAddr .sec) (f t)

/-- The same at the transaction level. -/
def memUpdateSeconds (f : Byte → Byte) (s : State) : State :=
  memWriteProtected (regWriteAddr .sec) (f (memRead (regReadAddr .sec) s).1) (.reg .sec) (memRead (regReadAddr .sec) s).2

theorem startOscillator_eq : startOscillator = updateSeconds (· &&& 0x7F#8) := rfl

theorem stopOscillator_eq : stopOscillator = updateSeconds (· ||| 0x80#8) := rfl

theorem memStart_eq (s : State) : memStart s = memUpdateSeconds (· &&& 0x7F#8) s := rfl

theorem memStop_eq (s : State) : memStop s = memUpdateSeconds (· ||| 0x80#8) s := rfl

section
variable (f : Byte → Byte) {s : State}

@[simp] theorem memUpdateSeconds_par : (memUpdateSeconds f s).par = s.par := by
  simp [memUpdateSeconds]

@[simp] theorem memUpdateSeconds_ticks : (memUpdateSeconds f s).ticks = s.ticks.drop 4 := by
  simp [memUpdateSeconds, ← List.drop_one]

theorem run_updateSeconds (h : AtRest s) : (updateSeconds f).run s = .ok ((), memUpdateSeconds f s) := by
  rw [updateSeconds, Ctrl.run_andThen_of_run _ (run_readRegister h (bitOf_regReadAddr .sec))]
  exact run_writeProtected (atRest_memRead _ h) (writePlace_regWriteAddr .sec)

/-- The response of an update is empty (44_oscillator_control.md R181, R182). -/
theorem perform_updateSeconds (h : AtRest s) :
    perform ((updateSeconds f).andThen fun _ => .done noResult) s = .next (respond noResult (memUpdateSeconds f s)) :=
  perform_eq_next.2 ⟨_, _, Ctrl.run_andThen_of_run _ (run_updateSeconds f h), rfl⟩

/-- The four frames: the read of the seconds and the protected write of the updated byte. -/
theorem trace_updateSeconds (h : AtRest s) :
    ((updateSeconds f).andThen fun _ => .done noResult).trace s =
      readEvents 0x81#8 ++ protectedEvents 0x80#8 (f (memRead 0x81#8 s).1) := by
  rw [Ctrl.trace_andThen_done, updateSeconds,
    Ctrl.trace_andThen_of_run _ (run_readRegister h (bitOf_regReadAddr .sec)), readRegister_trace, writeProtected_trace]
  rfl

theorem atRest_memUpdateSeconds (h : AtRest s) : AtRest (memUpdateSeconds f s) :=
  atRest_memWriteProtected _ _ _ (atRest_memRead _ h)

theorem sameEnvironment_memUpdateSeconds (h : AtRest s) : SameEnvironment s (memUpdateSeconds f s) :=
  Ctrl.run_sameEnvironment (run_updateSeconds f h)

theorem ready_memUpdateSeconds (h : Ready s) : Ready (memUpdateSeconds f s) := by
  obtain ⟨hrest, hanswers⟩ := h
  exact ⟨atRest_memUpdateSeconds f hrest, by simpa [Answers] using hanswers⟩

theorem memUpdateSeconds_wp (hl : Listens s) : (memUpdateSeconds f s).regs.wp = 0x80#8 :=
  memWriteProtected_wp (by simpa using hl) _ _ _

/-- The clock-halt bit is the updated byte's, whatever the read frame received. -/
theorem halted_memUpdateSeconds (hl : Listens s) :
    halted (memUpdateSeconds f s).regs = bitOf (f (memRead (regReadAddr .sec) s).1) 7 :=
  halted_memWriteProtected (by simpa using hl) _ _

/-- With no TICK in between the seconds are updated and nothing else is changed. -/
theorem memUpdateSeconds_of_quiet (h : Answers s) (hw : RamSound s) (hq : quiet 4 s = true) :
    (memUpdateSeconds f s).regs.cal.sec = f s.regs.cal.sec ∧ SamePlacesBut (.reg .sec) s (memUpdateSeconds f s) := by
  have hstill := frameTicks_regs_of_quiet hq
  have hregs : (memRead (regReadAddr .sec) s).2.regs = s.regs := (memRead_regs _ s).trans hstill
  have hquiet : quiet 3 (memRead (regReadAddr .sec) s).2 = true := by
    rw [quiet, memRead_ticks]
    exact quiet_tail hq
  have hplaces (q : Place) : placeRead (memUpdateSeconds f s).regs q =
      if q = .reg .wp then 0x80#8 else if q = .reg .sec then f s.regs.cal.sec else placeRead s.regs q := by
    rw [memUpdateSeconds, memRead_fst_of_still h hstill, placeRead_memWriteProtected_of_ticksKeep
      (by simpa using h.listens) (by rwa [RamSound, hregs]) (writePlace_regWriteAddr .sec) (ticksKeep_of_quiet hquiet q),
      hregs, regRead]
  refine ⟨by simpa [placeRead, regRead] using hplaces (.reg .sec), fun q hsec hwp => ?_⟩
  rw [hplaces, if_neg hwp, if_neg hsec]

end

/-! ### The two byte updates (44_oscillator_control.md R181, R182) -/

theorem bitOf_or_0x80 (b : Byte) : bitOf (b ||| 0x80#8) 7 = true := by simp [bitOf]

theorem bitOf_and_0x7F (b : Byte) : bitOf (b &&& 0x7F#8) 7 = false := by simp [bitOf]

/-- Clearing bit 7 undoes setting it, as far as the other bits go (44_oscillator_control.md R183). -/
theorem or_0x80_and_0x7F (b : Byte) : (b ||| 0x80#8) &&& 0x7F#8 = b &&& 0x7F#8 := by
  have hmasks : 0x80#8 &&& 0x7F#8 = 0#8 := by decide
  rw [BitVec.and_or_distrib_right, hmasks, BitVec.or_zero]

/-! ### START, STOP and RDREG 0x81 from rest (41_register_access.md R131, 44_oscillator_control.md R181, R182) -/

theorem exec_start {s : State} (h : AtRest s) : exec .start s = .next (respond noResult (memStart s)) :=
  perform_updateSeconds (· &&& 0x7F#8) h

theorem exec_stop {s : State} (h : AtRest s) : exec .stop s = .next (respond noResult (memStop s)) :=
  perform_updateSeconds (· ||| 0x80#8) h

theorem trace_startProg {s : State} (h : AtRest s) :
    startProg.trace s = readEvents 0x81#8 ++ protectedEvents 0x80#8 ((memRead 0x81#8 s).1 &&& 0x7F#8) := by
  rw [startProg, startOscillator_eq, trace_updateSeconds _ h]

theorem trace_stopProg {s : State} (h : AtRest s) :
    stopProg.trace s = readEvents 0x81#8 ++ protectedEvents 0x80#8 ((memRead 0x81#8 s).1 ||| 0x80#8) := by
  rw [stopProg, stopOscillator_eq, trace_updateSeconds _ h]

/-- START lets the clock run, whatever the read frame received and however the TICK steps fall. -/
theorem halted_memStart {s : State} (hl : Listens s) : halted (memStart s).regs = false := by
  rw [memStart_eq, halted_memUpdateSeconds _ hl, bitOf_and_0x7F]

/-- STOP halts the clock, whatever the read frame received and however the TICK steps fall. -/
theorem halted_memStop {s : State} (hl : Listens s) : halted (memStop s).regs = true := by
  rw [memStop_eq, halted_memUpdateSeconds _ hl, bitOf_or_0x80]

/-- After STOP the seconds register holds the byte read with bit 7 set, however the TICK steps of its writes fall. -/
theorem sec_memStop {s : State} (h : Answers s) (hstill : (frameTicks s).regs = s.regs) :
    (memStop s).regs.cal.sec = s.regs.cal.sec ||| 0x80#8 := by
  rw [memStop_eq, memUpdateSeconds, memRead_fst_of_still h hstill]
  exact sec_memWriteProtected_of_halting (by simpa using h.listens) (bitOf_or_0x80 _) _

/-- After START the seconds register holds the byte read with bit 7 clear, if no TICK falls before the re-lock frame. -/
theorem sec_memStart {n : Nat} {s : State} (h : Answers s) (hstill : (frameTicks s).regs = s.regs)
    (hq : quietFrom 3 (n + 1) s = true) : (memStart s).regs.cal.sec = s.regs.cal.sec &&& 0x7F#8 := by
  rw [memStart_eq, memUpdateSeconds, memRead_fst_of_still h hstill]
  refine regRead_memWriteProtected (r := .sec) (n := n) (by simpa using h.listens) (by decide) ?_ _ _
  simpa [quietFrom, ← List.drop_one] using hq

/-- RDREG of the seconds where no TICK falls before its frame: the byte in `RES[0]`, and no register changed. -/
theorem exec_rdreg_sec {s : State} (h : Ready s) (hstill : (frameTicks s).regs = s.regs) :
    ∃ u, exec (.rdreg 0x81#8) s = .next u ∧ u.res.r0 = zext16 s.regs.cal.sec ∧ u.regs = s.regs ∧
      u.ticks = s.ticks.tail ∧ Ready u := by
  obtain ⟨hrest, hanswers⟩ := h
  refine ⟨_, exec_rdreg hrest rfl, ?_, (memRead_regs _ s).trans hstill, memRead_ticks _ s, atRest_memRead _ hrest,
    by simpa [Answers] using hanswers⟩
  exact congrArg zext16 (memRead_fst_of_still (r := .sec) hanswers hstill)

end Sys2Proof.Machine

open Sys2Proof Sys2Proof.Machine

/-- Settles O32: both operations are an update of the seconds, the one with a byte that lets the clock run, the other with
one that halts it. -/
theorem startStop : Obligations.StartStop := by
  intro s hrest hw
  refine ⟨exec_start hrest, exec_stop hrest,
    fun hl => ⟨memUpdateSeconds_wp (· &&& 0x7F#8) hl, memUpdateSeconds_wp (· ||| 0x80#8) hl, halted_memStart hl,
      halted_memStop hl⟩,
    trace_startProg hrest, trace_stopProg hrest, rfl, rfl,
    atRest_memUpdateSeconds (· &&& 0x7F#8) hrest, atRest_memUpdateSeconds (· ||| 0x80#8) hrest,
    sameEnvironment_memUpdateSeconds (· &&& 0x7F#8) hrest, sameEnvironment_memUpdateSeconds (· ||| 0x80#8) hrest,
    fun hanswers hquiet => ?_⟩
  obtain ⟨hstartSec, hstartSame⟩ := memUpdateSeconds_of_quiet (· &&& 0x7F#8) hanswers hw hquiet
  obtain ⟨hstopSec, hstopSame⟩ := memUpdateSeconds_of_quiet (· ||| 0x80#8) hanswers hw hquiet
  exact ⟨hstartSec, hstopSec, hstartSame, hstopSame⟩

/-- Settles O33: from STOP's write to START's the clock is halted, so the schedule counts only for STOP's read and from
START's re-lock frame on. -/
theorem stopStartLaw : Obligations.StopStartLaw := by
  intro s hready hstop hstart
  obtain ⟨hrest, hanswers⟩ := hready
  have hsec := sec_memStop hanswers (frameTicks_regs_of_quiet (n := 2) hstop)
  set t := respond noResult (memStop s) with ht
  have hreadyT : Ready t := ready_memUpdateSeconds (· ||| 0x80#8) ⟨hrest, hanswers⟩
  have hhalted : halted t.regs = true := halted_memStop hanswers.listens
  obtain ⟨u, hu, hreadU, hregsU, hticksU, hrestU, hanswersU⟩ :=
    exec_rdreg_sec hreadyT (frameTicks_regs_of_halted hhalted)
  have hscheduleU : u.ticks = s.ticks.drop 5 := by simp [hticksU, ht, memStop_eq, ← List.drop_one]
  have hquietU : quietFrom 3 2 u = true := by simpa [quietFrom, hscheduleU] using hstart
  have hsecV := sec_memStart hanswersU (frameTicks_regs_of_halted (hregsU ▸ hhalted)) hquietU
  set v := respond noResult (memStart u) with hv
  have hreadyV : Ready v := ready_memUpdateSeconds (· &&& 0x7F#8) ⟨hrestU, hanswersU⟩
  have hquietV : quiet 1 v = true := by
    simpa [quiet, hv, memStart_eq] using quiet_tail hquietU
  obtain ⟨w, hw, hreadW, -⟩ := exec_rdreg_sec hreadyV (frameTicks_regs_of_quiet hquietV)
  refine ⟨t, u, v, w, exec_stop hrest, hu, ?_, exec_start hrestU, hw, ?_⟩
  · rw [hreadU, ht, respond_regs, hsec]
  · rw [hreadW, hv, respond_regs, hsecV, hregsU, ht, respond_regs, hsec, or_0x80_and_0x7F]
end

section
/-! PROOFS. Whole-snapshot operations: GETDT and SETDT (O37, O38), and the law of the pair (O39). -/

namespace Sys2Proof.Machine

/-! ### Operations whose run from rest is known (47_device_target.md R222) -/

/-- Started at rest, the operation runs to the answer and the state of `F`, at rest again. -/
def Ctrl.Computes {α : Type} (p : Ctrl α) (F : State → α × State) : Prop :=
  ∀ s, AtRest s → p.run s = .ok (F s) ∧ AtRest (F s).2

theorem Ctrl.computes_done {α : Type} (a : α) : (Ctrl.done a).Computes fun s => (a, s) := fun _ h => ⟨rfl, h⟩

theorem Ctrl.Computes.andThen {α β : Type} {p : Ctrl α} {f : α → Ctrl β} {F : State → α × State}
    {G : α → State → β × State} (hp : p.Computes F) (hf : ∀ a, (f a).Computes (G a)) :
    (p.andThen f).Computes fun s => G (F s).1 (F s).2 := fun s h => by
  obtain ⟨hrun, hrest⟩ := hp s h
  rw [Ctrl.run_andThen_of_run f hrun]
  exact hf _ _ hrest

theorem Ctrl.Computes.congr {α : Type} {p : Ctrl α} {F G : State → α × State} (hp : p.Computes F)
    (h : ∀ s, F s = G s) : p.Computes G :=
  funext h ▸ hp

theorem Ctrl.Computes.andThen_done {α β : Type} {p : Ctrl α} {F : State → α × State} (hp : p.Computes F) (g : α → β) :
    (p.andThen fun a => .done (g a)).Computes fun s => (g (F s).1, (F s).2) :=
  hp.andThen fun a => Ctrl.computes_done (g a)

/-- The trace of an operation from rest, and of what follows it. -/
theorem Ctrl.Computes.trace_andThen {α β : Type} {p : Ctrl α} {F : State → α × State} (hp : p.Computes F)
    (f : α → Ctrl β) {s : State} (h : AtRest s) :
    (p.andThen f).trace s = p.trace s ++ (f (F s).1).trace (F s).2 :=
  Ctrl.trace_andThen_of_run f (hp s h).1

/-- The command of an operation answers what the operation computes, at rest. -/
theorem Ctrl.Computes.perform {p : Ctrl Response} {F : State → Response × State} (hp : p.Computes F) {s : State}
    (h : AtRest s) :
    ∃ t, perform p s = .next t ∧ t = respond (F s).1 (F s).2 ∧ AtRest t ∧ SameEnvironment s t := by
  obtain ⟨hrun, hrest⟩ := hp s h
  have henv := Ctrl.run_sameEnvironment hrun
  generalize F s = x at hrun hrest henv
  exact ⟨_, perform_eq_next.2 ⟨_, _, hrun, rfl⟩, rfl, hrest, henv⟩

/-! ### Gets and sets as parts of an operation (43_calendar_fields.md R150) -/

section
variable (f : Field) (v : Half) (s : State)

@[simp] theorem memGet_par : (memGet f s).2.par = s.par := memRead_par _ s
@[simp] theorem memGet_ticks : (memGet f s).2.ticks = s.ticks.tail := memRead_ticks _ s
theorem memGet_regs : (memGet f s).2.regs = (frameTicks s).regs := memRead_regs _ s

@[simp] theorem memSet_par : (memSet f v s).par = s.par := memWriteProtected_par _ _ _ s
@[simp] theorem memSet_ticks : (memSet f v s).ticks = s.ticks.drop 3 := memWriteProtected_ticks _ _ _ s

theorem memSet_ram : (memSet f v s).regs.ram = s.regs.ram := memWriteProtected_ram _ _ _ s

theorem memSet_ctl : (memSet f v s).regs.ctl = s.regs.ctl :=
  memWriteProtected_ctl (by simpa using fieldReg_ne_ctl f) _ _ s

theorem getField_computes : (getField f).Computes (memGet f) := fun _ h =>
  ⟨Ctrl.run_andThen_of_run _ (run_readRegister h (bitOf_regReadAddr _)), atRest_memRead _ h⟩

theorem setField_computes : (setField f v).Computes fun s => ((), memSet f v s) := fun _ h =>
  ⟨run_writeProtected h (writePlace_regWriteAddr _), atRest_memWriteProtected _ _ _ h⟩

theorem getField_emits : (getField f).Emits (readEvents (regReadAddr (fieldReg f))) := fun s =>
  ⟨(Ctrl.trace_andThen_done _ _ s).trans (readRegister_trace _ s), (getField_makesFrames f s).2⟩

theorem setField_emits : (setField f v).Emits (protectedEvents (regWriteAddr (fieldReg f)) (fieldByte f v)) := fun s =>
  ⟨writeProtected_trace _ _ s, (setField_makesFrames f v s).2⟩

end

/-! ### The seven gets and the seven sets, in their fixed order (45_snapshot.md R190, R191) -/

theorem getDateTime_computes : getDateTime.Computes memGetDateTime := by
  refine Ctrl.Computes.congr ((getField_computes .year).andThen fun _ => (getField_computes .month).andThen fun _ =>
    (getField_computes .day).andThen fun _ => (getField_computes .weekday).andThen fun _ =>
    (getField_computes .hour).andThen fun _ => (getField_computes .minute).andThen fun _ =>
    (getField_computes .second).andThen fun _ => Ctrl.computes_done _) fun _ => rfl

theorem setDateTime_computes (y mo d w h mi sec : Half) :
    (setDateTime y mo d w h mi sec).Computes fun s => ((), memSetDateTime y mo d w h mi sec s) :=
  (setField_computes .year y).andThen fun _ => (setField_computes .month mo).andThen fun _ =>
  (setField_computes .day d).andThen fun _ => (setField_computes .weekday w).andThen fun _ =>
  (setField_computes .hour h).andThen fun _ => (setField_computes .minute mi).andThen fun _ =>
  setField_computes .second sec

theorem getDateTime_emits : getDateTime.Emits snapshotReadEvents := by
  simp only [snapshotReadEvents, List.append_assoc]
  refine (getField_emits .year).andThen fun _ => (getField_emits .month).andThen fun _ =>
    (getField_emits .day).andThen fun _ => (getField_emits .weekday).andThen fun _ =>
    (getField_emits .hour).andThen fun _ => (getField_emits .minute).andThen fun _ => ?_
  rw [← List.append_nil (readEvents 0x81#8)]
  exact (getField_emits .second).andThen fun _ => Ctrl.emits_done _

theorem setDateTime_emits (y mo d w h mi sec : Half) :
    (setDateTime y mo d w h mi sec).Emits (snapshotWriteEvents y mo d w h mi sec) := by
  simp only [snapshotWriteEvents, List.append_assoc]
  exact (setField_emits .year y).andThen fun _ => (setField_emits .month mo).andThen fun _ =>
    (setField_emits .day d).andThen fun _ => (setField_emits .weekday w).andThen fun _ =>
    (setField_emits .hour h).andThen fun _ => (setField_emits .minute mi).andThen fun _ => setField_emits .second sec

/-- What every get keeps, the seven gets keep. -/
theorem memGetDateTime_keeps {P : State → Prop} (hget : ∀ f t, P t → P (memGet f t).2) {s : State} (h : P s) :
    P (memGetDateTime s).2 :=
  hget .second _ <| hget .minute _ <| hget .hour _ <| hget .weekday _ <| hget .day _ <| hget .month _ <|
    hget .year s h

/-- What every set keeps, the seven sets keep. -/
theorem memSetDateTime_keeps {P : State → Prop} (hset : ∀ f v t, P t → P (memSet f v t)) (y mo d w h mi sec : Half)
    {s : State} (hs : P s) : P (memSetDateTime y mo d w h mi sec s) :=
  hset .second sec _ <| hset .minute mi _ <| hset .hour h _ <| hset .weekday w _ <| hset .day d _ <|
    hset .month mo _ <| hset .year y s hs

@[simp] theorem memGetDateTime_par (s : State) : (memGetDateTime s).2.par = s.par :=
  memGetDateTime_keeps (P := fun t => t.par = s.par) (fun f t h => (memGet_par f t).trans h) rfl

/-- The seven gets are read frames: only their TICK steps change the device, and those the calendar only
(47_device_target.md R245). -/
theorem sameBesidesCalendar_memGetDateTime {s t : State} (h : SameBesidesCalendar s t) :
    SameBesidesCalendar s (memGetDateTime t).2 :=
  memGetDateTime_keeps (fun f u hu => by simpa [SameBesidesCalendar, memGet_regs] using hu) h

/-- The response is the controller's: it is no part of the device. -/
theorem SameBesidesCalendar.respond {s t : State} (h : SameBesidesCalendar s t) (r : Response) :
    SameBesidesCalendar s (respond r t) :=
  h

section
variable (y mo d w h mi sec : Half) (s : State)

@[simp] theorem memSetDateTime_par : (memSetDateTime y mo d w h mi sec s).par = s.par :=
  memSetDateTime_keeps (P := fun t => t.par = s.par) (fun f v t ht => (memSet_par f v t).trans ht) y mo d w h mi sec rfl

@[simp] theorem memSetDateTime_ticks : (memSetDateTime y mo d w h mi sec s).ticks = s.ticks.drop 21 := by
  simp [memSetDateTime]

theorem memSetDateTime_ctl : (memSetDateTime y mo d w h mi sec s).regs.ctl = s.regs.ctl :=
  memSetDateTime_keeps (P := fun t => t.regs.ctl = s.regs.ctl) (fun f v t ht => (memSet_ctl f v t).trans ht)
    y mo d w h mi sec rfl

theorem memSetDateTime_ram : (memSetDateTime y mo d w h mi sec s).regs.ram = s.regs.ram :=
  memSetDateTime_keeps (P := fun t => t.regs.ram = s.regs.ram) (fun f v t ht => (memSet_ram f v t).trans ht)
    y mo d w h mi sec rfl

/-- The last of the seven sets leaves the device locked. -/
theorem memSetDateTime_wp {s : State} (hl : Listens s) : (memSetDateTime y mo d w h mi sec s).regs.wp = 0x80#8 :=
  memWriteProtected_wp (by simpa using hl) _ _ _

end

/-! ### The flags of a snapshot's response (10_state.md R29) -/

/-- STATUS bit by bit. -/
theorem getLsbD_packStatus (derr : BitVec 7) (torn ill : Bool) (i : Nat) :
    (packStatus derr torn ill).getLsbD i =
      if i < 7 then derr.getLsbD i else if i = 7 then torn else if i = 8 then ill else false := by
  change (0#7 ++ BitVec.ofBool ill ++ BitVec.ofBool torn ++ derr).getLsbD i = _
  simp only [BitVec.getLsbD_append, BitVec.getLsbD_ofBool]
  grind

theorem statusDerr_packStatus (derr : BitVec 7) (torn ill : Bool) {i : Nat} (hi : i < 7) :
    statusDerr (packStatus derr torn ill) i = derr.getLsbD i := by
  rw [statusDerr, getLsbD_packStatus, if_pos hi, decide_eq_true hi, Bool.true_and]

@[simp] theorem statusTorn_packStatus (derr : BitVec 7) (torn ill : Bool) :
    statusTorn (packStatus derr torn ill) = torn :=
  getLsbD_packStatus derr torn ill 7

@[simp] theorem statusIll_packStatus (derr : BitVec 7) (torn ill : Bool) :
    statusIll (packStatus derr torn ill) = ill :=
  getLsbD_packStatus derr torn ill 8

/-! ### The calendar while no TICK changes it (47_device_target.md R245) -/

/-- The calendar registers hold `c`, and no TICK of the next `n` frames changes that: none falls, or the clock is
halted. -/
def Holds (n : Nat) (c : Calendar) (s : State) : Prop :=
  s.regs.cal = c ∧ (quiet n s = true ∨ halted s.regs = true)

section
variable {n : Nat} {c : Calendar} {s : State}

/-- A schedule that is quiet for a range of frames is quiet for every part of it. -/
theorem quietFrom_of_le {i j m n : Nat} {s : State} (hij : i ≤ j) (hend : j + n ≤ i + m) (h : quietFrom i m s = true) :
    quietFrom j n s = true := by
  refine List.all_eq_true.2 fun x hx => List.all_eq_true.1 h x ?_
  rw [show j = i + (j - i) by omega, ← List.drop_drop, List.take_drop] at hx
  exact List.take_subset_take_left _ (by omega) (List.mem_of_mem_drop hx)

theorem Holds.mono {m : Nat} (h : Holds n c s) (hmn : m ≤ n) : Holds m c s :=
  ⟨h.1, h.2.imp_left fun hquiet => quietFrom_of_le (i := 0) (j := 0) le_rfl (by omega) hquiet⟩

theorem Holds.frameTicks_regs (h : Holds (n + 1) c s) : (frameTicks s).regs = s.regs := by
  obtain ⟨-, hquiet | hhalted⟩ := h
  · exact frameTicks_regs_of_quiet hquiet
  · exact frameTicks_regs_of_halted hhalted

theorem Holds.respond (h : Holds n c s) (r : Response) : Holds n c (respond r s) := h

/-- A frame that leaves the calendar as its TICK steps left it. -/
theorem Holds.frame {t : State} (h : Holds (n + 1) c s) (hcal : t.regs.cal = (frameTicks s).regs.cal)
    (hticks : t.ticks = s.ticks.tail) : Holds n c t := by
  rw [h.frameTicks_regs] at hcal
  obtain ⟨hc, hstill⟩ := h
  refine ⟨hcal.trans hc, hstill.imp (fun hquiet => ?_) (fun hhalted => ?_)⟩
  · rw [quiet, hticks]
    exact quiet_tail hquiet
  · rwa [halted, hcal]

/-- A get answers for the byte that the calendar holds, and goes on holding. -/
theorem Holds.get (h : Holds (n + 1) c s) (ha : Answers s) (f : Field) :
    (memGet f s).1 = (fieldValue f (regRead s.regs (fieldReg f)), decodeErr f (regRead s.regs (fieldReg f))) ∧
      Holds n c (memGet f s).2 ∧ Answers (memGet f s).2 := by
  refine ⟨?_, h.frame (by rw [memGet_regs]) (memGet_ticks f s), by simpa [Answers] using ha⟩
  rw [memGet_fst ha, h.frameTicks_regs]

/-- The snapshot of a calendar that holds still is what its registers decode to (45_snapshot.md R190). -/
theorem Holds.snapshot (h : Holds (n + 7) c s) (ha : Answers s) :
    (memGetDateTime s).1 = snapshotOf c ∧ Holds n c (memGetDateTime s).2 := by
  obtain ⟨hy, h1, ha1⟩ := h.get ha .year
  obtain ⟨hmo, h2, ha2⟩ := h1.get ha1 .month
  obtain ⟨hd, h3, ha3⟩ := h2.get ha2 .day
  obtain ⟨hw, h4, ha4⟩ := h3.get ha3 .weekday
  obtain ⟨hhr, h5, ha5⟩ := h4.get ha4 .hour
  obtain ⟨hmi, h6, ha6⟩ := h5.get ha5 .minute
  obtain ⟨hsec, h7, -⟩ := h6.get ha6 .second
  refine ⟨?_, h7⟩
  rw [memGetDateTime, hy, hmo, hd, hw, hhr, hmi, hsec]
  simp only [fieldReg, regRead, h.1, h1.1, h2.1, h3.1, h4.1, h5.1, h6.1, snapshotOf]

/-! ### A calendar field written (43_calendar_fields.md R158 to R164) -/

/-- The calendar with the register of field `f` holding `b`. -/
def writeField (c : Calendar) (f : Field) (b : Byte) : Calendar :=
  match f with
  | .second => { c with sec := b }
  | .minute => { c with min := b }
  | .hour => { c with hr := b }
  | .day => { c with day := b }
  | .month => { c with mon := b }
  | .weekday => { c with wday := b }
  | .year => { c with yr := b }

theorem regWrite_fieldReg (d : RegFile) (f : Field) (b : Byte) :
    regWrite d (fieldReg f) b = { d with cal := writeField d.cal f b } := by
  cases f <;> rfl

theorem writeField_sec_of_ne {f : Field} (hf : f ≠ .second) (c : Calendar) (b : Byte) :
    (writeField c f b).sec = c.sec := by
  cases f
  case second => exact (hf rfl).elim
  all_goals rfl

/-- A write frame of WP leaves the calendar to its TICK steps. -/
theorem memWrite_wp_cal (a v : Byte) (s : State) : (memWrite a v (.reg .wp) s).regs.cal = (frameTicks s).regs.cal := by
  unfold memWrite
  split
  · simp [storeAt, accepts, placeWrite, regWrite]
  · rfl

theorem memWrite_field_cal (hl : Listens s) {f : Field} (ha : accepts s.regs (.reg (fieldReg f)) = true) (a b : Byte) :
    (memWrite a b (.reg (fieldReg f)) s).regs.cal = writeField (frameTicks s).regs.cal f b := by
  have haccepts : accepts (frameTicks s).regs (.reg (fieldReg f)) = true := by simpa [accepts, locked] using ha
  rw [memWrite_regs hl, storeAt, if_pos haccepts, placeWrite, regWrite_fieldReg]

/-- The unlock frame of a protected write (41_register_access.md R133). -/
abbrev memUnlock (s : State) : State := memWrite (regWriteAddr .wp) wpUnlock (.reg .wp) s

theorem Holds.unlock (h : Holds (n + 1) c s) : Holds n c (memUnlock s) :=
  h.frame (memWrite_wp_cal _ _ s) (memWrite_ticks _ _ _ s)

/-- A protected write of a field whose write frame meets the calendar `c`. It is held from there on if no TICK falls, or
if the field written halts the clock or finds it halted. -/
theorem Holds.writeProtected (h : Holds 1 c (memUnlock s)) (hl : Listens s) {f : Field} {b : Byte}
    (hstill : quietFrom 1 (n + 1) (memUnlock s) = true ∨ bitOf (writeField c f b).sec 7 = true) (a : Byte) :
    Holds n (writeField c f b) (memWriteProtected a b (.reg (fieldReg f)) s) := by
  have hlu : Listens (memUnlock s) := by simpa using hl
  have hcal : (memWrite a b (.reg (fieldReg f)) (memUnlock s)).regs.cal = writeField c f b := by
    rw [memWrite_field_cal hlu (accepts_unlocked hl _), h.frameTicks_regs, h.1]
  have hwritten : Holds (n + 1) (writeField c f b) (memWrite a b (.reg (fieldReg f)) (memUnlock s)) := by
    refine ⟨hcal, hstill.imp (fun hquiet => ?_) (fun hhalted => ?_)⟩
    · rwa [quiet, memWrite_ticks, ← List.drop_one]
    · rwa [halted, hcal]
  exact hwritten.frame (memWrite_wp_cal _ _ _) (memWrite_ticks _ _ _ _)

/-- A set of a field other than the second, by the calendar that its write frame meets: it neither halts the clock nor
lets it run. -/
theorem Holds.set_of_unlocked (h : Holds (n + 2) c (memUnlock s)) (hl : Listens s) {f : Field} (hf : f ≠ .second)
    (v : Half) : Holds n (writeField c f (fieldByte f v)) (memSet f v s) := by
  refine (h.mono (by omega)).writeProtected hl (h.2.imp (fun hquiet => ?_) fun hhalted => ?_) _
  · exact quietFrom_of_le (i := 0) (by omega) (by omega) hquiet
  · rwa [writeField_sec_of_ne hf, ← h.1]

theorem Holds.set (h : Holds (n + 3) c s) (hl : Listens s) {f : Field} (hf : f ≠ .second) (v : Half) :
    Holds n (writeField c f (fieldByte f v)) (memSet f v s) :=
  h.unlock.set_of_unlocked hl hf v

/-- The seven sets leave the seven encoded values (45_snapshot.md R191): the TICK steps before the first frame count for
nothing, and so do those before the write of the seconds while the clock is halted. -/
theorem Holds.setDateTime (h : Holds 19 c (memUnlock s)) (hl : Listens s) (hlast : quietFrom 20 (n + 1) s = true)
    (y mo d w hr mi sec : Half) : Holds n (calendarOf y mo d w hr mi sec) (memSetDateTime y mo d w hr mi sec s) := by
  have h1 := h.set_of_unlocked hl (f := .year) (by decide) y
  have h2 := h1.set (by simpa using hl) (f := .month) (by decide) mo
  have h3 := h2.set (by simpa using hl) (f := .day) (by decide) d
  have h4 := h3.set (by simpa using hl) (f := .weekday) (by decide) w
  have h5 := h4.set (by simpa using hl) (f := .hour) (by decide) hr
  have h6 := h5.set (by simpa using hl) (f := .minute) (by decide) mi
  refine h6.unlock.writeProtected (f := .second) (by simpa using hl) (.inl ?_) _
  simpa [quietFrom, ← List.drop_one] using hlast

end

/-- Seven encoded values decode without an error (42_bcd_codec.md R144). -/
theorem snapshotOf_calendarOf_derr (y mo d w h mi sec : Half) :
    (snapshotOf (calendarOf y mo d w h mi sec)).derr = 0#7 := by
  simp only [snapshotOf, calendarOf, decodeErr_fieldByte]
  rfl

end Sys2Proof.Machine

open Sys2Proof Sys2Proof.Machine

/-- Settles O37: the operation is its seven gets, and each shows the calendar as its TICK steps leave it. -/
theorem getDateTime : Obligations.GetDateTime := by
  intro s hrest
  have hevents : getdtProg.trace s = snapshotReadEvents :=
    (Ctrl.trace_andThen_done _ _ s).trans (getDateTime_emits s).1
  obtain ⟨t, hexec, ht, hrest', henv⟩ := (getDateTime_computes.andThen_done (snapshotResult · false)).perform hrest
  refine ⟨hevents, rfl, t, hexec, ht, hrest', henv, ?_⟩
  subst ht
  refine ⟨(sameBesidesCalendar_memGetDateTime ⟨rfl, rfl, fun _ => rfl⟩).respond _, fun i => statusDerr_packStatus _ _ _,
    statusTorn_packStatus _ _ _, statusIll_packStatus _ _ _, fun hanswers hstill => ?_⟩
  have hholds : Holds (0 + 7) s.regs.cal s := ⟨rfl, hstill⟩
  obtain ⟨hsnapshot, hcal, -⟩ := hholds.snapshot hanswers
  exact ⟨hsnapshot, hcal⟩

/-- Settles O38: the operation is its seven sets, which leave one another's registers alone. -/
theorem setDateTime : Obligations.SetDateTime := by
  intro y mo d w h mi sec s hrest
  have hevents : (setdtProg y mo d w h mi sec).trace s = snapshotWriteEvents y mo d w h mi sec :=
    (Ctrl.trace_andThen_done _ _ s).trans (setDateTime_emits y mo d w h mi sec s).1
  obtain ⟨t, hexec, ht, hrest', henv⟩ :=
    ((setDateTime_computes y mo d w h mi sec).andThen_done fun _ => noResult).perform hrest
  refine ⟨hevents, rfl, t, hexec, ht, hrest', henv, ?_⟩
  subst ht
  refine ⟨memSetDateTime_wp y mo d w h mi sec, memSetDateTime_ctl y mo d w h mi sec s,
    memSetDateTime_ram y mo d w h mi sec s, fun hl hquiet => ?_⟩
  have hholds : Holds 21 s.regs.cal s := ⟨rfl, .inl hquiet⟩
  have hlast : quietFrom 20 1 s = true := quietFrom_of_le (i := 0) (m := 21) (by decide) (by decide) hquiet
  obtain ⟨hcal, -⟩ := (hholds.unlock.mono (by decide)).setDateTime hl hlast y mo d w h mi sec
  exact hcal

/-- Settles O39: the snapshot decodes the seven bytes that the sets encoded. -/
theorem snapshotLaw : Obligations.SnapshotLaw := by
  rintro y mo d w h mi sec s ⟨hrest, hanswers⟩ hquiet
  obtain ⟨t, hset, ht, hrest', henv⟩ :=
    ((setDateTime_computes y mo d w h mi sec).andThen_done fun _ => noResult).perform hrest
  obtain ⟨u, hget, hu, -⟩ := (getDateTime_computes.andThen_done (snapshotResult · false)).perform hrest'
  have hanswers' : Answers t := by rwa [Answers, henv.2.1]
  have hfirst : Holds 19 (memUnlock s).regs.cal (memUnlock s) := by
    refine ⟨rfl, .inl ?_⟩
    rw [quiet, memWrite_ticks, ← List.drop_one]
    exact quietFrom_of_le (by decide) (by decide) hquiet
  have hlast : quietFrom 20 (0 + 7 + 1) s = true := quietFrom_of_le (by decide) (by decide) hquiet
  have hholds : Holds (0 + 7) (calendarOf y mo d w h mi sec) t := by
    rw [ht]
    exact (hfirst.setDateTime hanswers.listens hlast y mo d w h mi sec).respond _
  obtain ⟨hsnapshot, -⟩ := hholds.snapshot hanswers'
  refine ⟨t, u, hset, hget, ?_⟩
  rw [hu, hsnapshot, respond_status, respond_res, snapshotResult, snapshotOf_calendarOf_derr]
  refine ⟨rfl, (toNat_fieldValue_fieldByte .year y).trans (if_pos rfl), ?_⟩
  have hvalue {f : Field} (hf : f ≠ .year) (v : Half) := (toNat_fieldValue_fieldByte f v).trans (if_neg hf)
  exact ⟨hvalue (f := .month) (by decide) mo, hvalue (f := .day) (by decide) d, hvalue (f := .weekday) (by decide) w,
    hvalue (f := .hour) (by decide) h, hvalue (f := .minute) (by decide) mi, hvalue (f := .second) (by decide) sec⟩
end

section
/-! PROOFS. SETDT.A: a calendar set while the clock is halted (O40). -/

namespace Sys2Proof.Machine

/-! ### STOP and START as parts of an operation (44_oscillator_control.md R181, R182) -/

theorem stopOscillator_computes : stopOscillator.Computes fun s => ((), memStop s) := fun _ h =>
  ⟨run_updateSeconds (· ||| 0x80#8) h, atRest_memUpdateSeconds (· ||| 0x80#8) h⟩

theorem startOscillator_computes : startOscillator.Computes fun s => ((), memStart s) := fun _ h =>
  ⟨run_updateSeconds (· &&& 0x7F#8) h, atRest_memUpdateSeconds (· &&& 0x7F#8) h⟩

theorem memUpdateSeconds_ctl (f : Byte → Byte) (s : State) : (memUpdateSeconds f s).regs.ctl = s.regs.ctl := by
  rw [memUpdateSeconds, memWriteProtected_ctl (by decide), memRead_ctl]

theorem memUpdateSeconds_ram (f : Byte → Byte) (s : State) : (memUpdateSeconds f s).regs.ram = s.regs.ram := by
  rw [memUpdateSeconds, memWriteProtected_ram, memRead_regs, frameTicks_ram]

theorem and_0x7F_of_clear {b : Byte} (h : bitOf b 7 = false) : b &&& 0x7F#8 = b := by
  revert b
  decide

/-- START on a clock that runs already writes the seconds back as they are. -/
theorem Holds.start {n : Nat} {c : Calendar} {s : State} (h : Holds (n + 4) c s) (ha : Answers s)
    (hc : bitOf c.sec 7 = false) : Holds n c (memStart s) := by
  set u := (memRead (regReadAddr .sec) s).2 with hu
  have hread : Holds (n + 3) c u := h.frame (by rw [hu, memRead_regs]) (memRead_ticks _ s)
  have hbyte : (memRead (regReadAddr .sec) s).1 = c.sec := by
    rw [memRead_fst_of_still ha h.frameTicks_regs, regRead, h.1]
  have hrunning : ¬ halted (memUnlock u).regs = true := by simp [halted, hread.unlock.1, hc]
  have hquiet : quiet (n + 2) (memUnlock u) = true := hread.unlock.2.resolve_right hrunning
  have hsame : writeField c .second (c.sec &&& 0x7F#8) = c := by rw [and_0x7F_of_clear hc, writeField]
  have hlu : Listens u := by simpa [hu] using ha.listens
  have hwritten := (hread.unlock.mono (by omega)).writeProtected (n := n) (f := .second) (b := c.sec &&& 0x7F#8) hlu
    (.inl (quietFrom_of_le (i := 0) (by omega) (by omega) hquiet)) (regWriteAddr .sec)
  rw [hsame] at hwritten
  rw [memStart_eq, memUpdateSeconds, hbyte]
  exact hwritten

/-! ### SETDT.A (45_snapshot.md R192) -/

theorem setdtAProg_computes {par : Params} (h : par.hasAtomicDT = true) (y mo d w hr mi sec : Half) :
    (setdtAProg par y mo d w hr mi sec).Computes fun s =>
      (noResult, memStart (memSetDateTime y mo d w hr mi sec (memStop s))) := by
  rw [setdtAProg, if_pos h]
  exact stopOscillator_computes.andThen fun _ => (setDateTime_computes y mo d w hr mi sec).andThen fun _ =>
    startOscillator_computes.andThen_done fun _ => noResult

/-- A set of the second writes a byte that lets the clock run (70_reset_and_hazards.md R295). -/
theorem bitOf_fieldByte_second (v : Half) : bitOf (fieldByte .second v) 7 = false :=
  bitOf_bcdByte ((Nat.mod_lt _ (by decide)).trans (by decide))

/-- The word of an operation whose option is absent is illegal (30_encoding.md R99). -/
theorem hostDecode_of_absentOption {i : Instr} {w : CmdWord} (hcode : encode i = .host w)
    (hhost : i.isInternal = false) (hoption : i.isOptional = true) : hostDecode false w = .error .absentOption := by
  simp [hostDecode, decodeOp_of_encode hcode, hhost, hoption]

end Sys2Proof.Machine

open Sys2Proof Sys2Proof.Machine

/-- Settles O40: from STOP's write to the write of the seconds the clock is halted, and START finds it running. -/
theorem atomicSetConsistent : Obligations.AtomicSetConsistent := by
  refine ⟨fun y mo d w h mi sec s habsent => ?_, fun y mo d w h mi sec s hrest hpar => ?_⟩
  · obtain ⟨-, hrefused⟩ := absentOptionRefused s habsent
    exact ⟨hrefused y mo d w h mi sec, hostDecode_of_absentOption (i := .setdtA y mo d w h mi sec) rfl rfl rfl⟩
  · obtain ⟨t, hexec, ht, hrest', henv⟩ := (setdtAProg_computes hpar y mo d w h mi sec).perform hrest
    refine ⟨rfl, t, hexec, ht, hrest', henv, ?_⟩
    subst ht
    refine ⟨fun hl => memUpdateSeconds_wp (· &&& 0x7F#8) (by simpa [memStop_eq] using hl), ?_, ?_,
      fun hanswers hquiet => ?_⟩
    · rw [respond_regs, memStart_eq, memUpdateSeconds_ctl, memSetDateTime_ctl, memStop_eq, memUpdateSeconds_ctl]
    · rw [respond_regs, memStart_eq, memUpdateSeconds_ram, memSetDateTime_ram, memStop_eq, memUpdateSeconds_ram]
    · have hstopped : Holds 20 (memStop s).regs.cal (memStop s) := ⟨rfl, .inr (halted_memStop hanswers.listens)⟩
      have hlast : quietFrom 20 (0 + 4 + 1) (memStop s) = true := by
        simpa [quietFrom, memStop_eq] using hquiet
      have hset := hstopped.unlock.setDateTime (by simpa [memStop_eq] using hanswers.listens) hlast y mo d w h mi sec
      obtain ⟨hcal, -⟩ := hset.start (by simpa [Answers, memStop_eq] using hanswers) (bitOf_fieldByte_second sec)
      exact hcal
end

section
/-! PROOFS. GETDT.A: how many snapshots it takes, and what it answers (O41). -/

namespace Sys2Proof.Machine

/-! ### Snapshots until two agree or the retries run out (45_snapshot.md R193)

The loop is always entered just after a snapshot. Told from the state before that snapshot, one more turn of the loop is
the same operation with one retry less, from the state after it. -/

/-- GETDT.A with `n` retries. -/
def snapshotsUntilEqual (n : Nat) : Ctrl Response := getDateTime.andThen (rereadUntilEqual n)

/-- The same at the transaction level. -/
def memSnapshotsUntilEqual (n : Nat) (s : State) : Response × State :=
  memReread n (memGetDateTime s).1 (memGetDateTime s).2

theorem getdtAProg_of_present {par : Params} (h : par.hasAtomicDT = true) :
    getdtAProg par = snapshotsUntilEqual par.atomicRetryMax :=
  if_pos h

theorem rereadUntilEqual_computes (n : Nat) (p : Snapshot) : (rereadUntilEqual n p).Computes (memReread n p) := by
  induction n generalizing p with
  | zero => exact getDateTime_computes.andThen_done _
  | succ n ih =>
    have hturn (q : Snapshot) : (if q = p then .done (snapshotResult q false) else rereadUntilEqual n q).Computes
        fun s => if q = p then (snapshotResult q false, s) else memReread n q s := by
      split
      · exact Ctrl.computes_done _
      · exact ih q
    exact (getDateTime_computes.andThen hturn).congr fun s => by rw [memReread]

theorem snapshotsUntilEqual_computes (n : Nat) : (snapshotsUntilEqual n).Computes (memSnapshotsUntilEqual n) :=
  getDateTime_computes.andThen (rereadUntilEqual_computes n)

/-! ### One turn of the loop -/

section
variable {n k : Nat} {torn : Bool} {s : State}

theorem trace_getDateTime_andThen {α : Type} (f : Snapshot → Ctrl α) (h : AtRest s) :
    (getDateTime.andThen f).trace s = snapshotReadEvents ++ (f (memGetDateTime s).1).trace (memGetDateTime s).2 := by
  rw [getDateTime_computes.trace_andThen f h, (getDateTime_emits s).1]

theorem trace_snapshotsUntilEqual_zero (h : AtRest s) :
    (snapshotsUntilEqual 0).trace s = snapshotReadEvents ++ snapshotReadEvents := by
  rw [snapshotsUntilEqual, trace_getDateTime_andThen _ h, rereadUntilEqual, Ctrl.trace_andThen_done,
    (getDateTime_emits _).1]

theorem trace_snapshotsUntilEqual_succ (h : AtRest s) :
    (snapshotsUntilEqual (n + 1)).trace s = snapshotReadEvents ++
      if snapshotAt 1 s = snapshotAt 0 s then snapshotReadEvents
      else (snapshotsUntilEqual n).trace (memGetDateTime s).2 := by
  have hrest : AtRest (memGetDateTime s).2 := (getDateTime_computes s h).2
  rw [snapshotsUntilEqual, trace_getDateTime_andThen _ h, rereadUntilEqual, trace_getDateTime_andThen _ hrest,
    snapshotsUntilEqual, trace_getDateTime_andThen _ hrest]
  by_cases heq : (memGetDateTime (memGetDateTime s).2).1 = (memGetDateTime s).1
  · rw [if_pos heq, if_pos (show snapshotAt 1 s = snapshotAt 0 s from heq), Ctrl.trace, List.append_nil]
  · rw [if_neg heq, if_neg (show ¬ snapshotAt 1 s = snapshotAt 0 s from heq)]

theorem memSnapshotsUntilEqual_zero :
    memSnapshotsUntilEqual 0 s =
      (snapshotResult (snapshotAt 1 s) (decide (snapshotAt 1 s ≠ snapshotAt 0 s)), memGetDateTimes 2 s) := rfl

theorem memSnapshotsUntilEqual_succ :
    memSnapshotsUntilEqual (n + 1) s =
      if snapshotAt 1 s = snapshotAt 0 s then (snapshotResult (snapshotAt 1 s) false, memGetDateTimes 2 s)
      else memSnapshotsUntilEqual n (memGetDateTime s).2 := rfl

/-! ### How GETDT.A ends -/

/-- With `n` retries, GETDT.A from `s` ends with the comparison of the snapshots `k` and `k + 1`: it answers the last
one, with the flag `torn`, and has read `k + 2` in all. -/
def EndsAfter (n k : Nat) (torn : Bool) (s : State) : Prop :=
  memSnapshotsUntilEqual n s = (snapshotResult (snapshotAt (k + 1) s) torn, memGetDateTimes (k + 2) s) ∧
    (snapshotsUntilEqual n).trace s = (List.replicate (k + 2) snapshotReadEvents).flatten

/-- The first two snapshots agree. -/
theorem endsAfter_at_once (hrest : AtRest s) (heq : snapshotAt 1 s = snapshotAt 0 s) (n : Nat) :
    EndsAfter n 0 false s := by
  cases n with
  | zero => exact ⟨by simp [memSnapshotsUntilEqual_zero, heq], by simp [trace_snapshotsUntilEqual_zero hrest]⟩
  | succ n =>
    refine ⟨?_, ?_⟩
    · rw [memSnapshotsUntilEqual_succ, if_pos heq]
    · rw [trace_snapshotsUntilEqual_succ hrest, if_pos heq]
      simp

/-- The first two snapshots differ, and no retry is left. -/
theorem endsAfter_no_retry (hrest : AtRest s) (hne : snapshotAt 1 s ≠ snapshotAt 0 s) : EndsAfter 0 0 true s :=
  ⟨by simp [memSnapshotsUntilEqual_zero, hne], by simp [trace_snapshotsUntilEqual_zero hrest]⟩

/-- The first two snapshots differ, and a retry is left. -/
theorem EndsAfter.retry (h : EndsAfter n k torn (memGetDateTime s).2) (hrest : AtRest s)
    (hne : snapshotAt 1 s ≠ snapshotAt 0 s) : EndsAfter (n + 1) (k + 1) torn s := by
  obtain ⟨hanswer, htrace⟩ := h
  refine ⟨?_, ?_⟩
  · rw [memSnapshotsUntilEqual_succ, if_neg hne, hanswer]
    rfl
  · rw [trace_snapshotsUntilEqual_succ hrest, if_neg hne, htrace]
    rfl

/-- The first two that agree end the operation. -/
theorem endsAfter_of_agree (hrest : AtRest s) (hk : k ≤ n) (hne : ∀ j, j < k → snapshotAt (j + 1) s ≠ snapshotAt j s)
    (heq : snapshotAt (k + 1) s = snapshotAt k s) : EndsAfter n k false s := by
  induction k generalizing n s with
  | zero => exact endsAfter_at_once hrest heq n
  | succ k ih =>
    obtain ⟨m, rfl⟩ : ∃ m, n = m + 1 := ⟨n - 1, by omega⟩
    have hrest' : AtRest (memGetDateTime s).2 := (getDateTime_computes s hrest).2
    exact (ih hrest' (by omega) (fun j hj => hne (j + 1) (by omega)) heq).retry hrest (hne 0 (by omega))

/-- If no two agree the last is answered, torn. -/
theorem endsAfter_of_disagree (hrest : AtRest s) (hne : ∀ k, k ≤ n → snapshotAt (k + 1) s ≠ snapshotAt k s) :
    EndsAfter n n true s := by
  induction n generalizing s with
  | zero => exact endsAfter_no_retry hrest (hne 0 le_rfl)
  | succ n ih =>
    have hrest' : AtRest (memGetDateTime s).2 := (getDateTime_computes s hrest).2
    exact (ih hrest' fun k hk => hne (k + 1) (by omega)).retry hrest (hne 0 (by omega))

/-- GETDT.A ends in one of these ways, and TORN says in which. -/
theorem exists_endsAfter (n : Nat) (hrest : AtRest s) :
    ∃ k torn, EndsAfter n k torn s ∧ (torn = true ↔ ∀ k, k ≤ n → snapshotAt (k + 1) s ≠ snapshotAt k s) := by
  by_cases hagree : ∃ k, k ≤ n ∧ snapshotAt (k + 1) s = snapshotAt k s
  · obtain ⟨hk, heq⟩ := Nat.find_spec hagree
    have hne (j : Nat) (hj : j < Nat.find hagree) : snapshotAt (j + 1) s ≠ snapshotAt j s := fun heq' =>
      Nat.find_min hagree hj ⟨by omega, heq'⟩
    exact ⟨_, false, endsAfter_of_agree hrest hk hne heq, iff_of_false (by decide) fun hall => hall _ hk heq⟩
  · have hne : ∀ k, k ≤ n → snapshotAt (k + 1) s ≠ snapshotAt k s := fun k hk heq => hagree ⟨k, hk, heq⟩
    exact ⟨n, true, endsAfter_of_disagree hrest hne, iff_of_true rfl hne⟩

/-- Any number of snapshots changes the device by TICK steps only (47_device_target.md R245). -/
theorem sameBesidesCalendar_memGetDateTimes (k : Nat) {t : State} (h : SameBesidesCalendar s t) :
    SameBesidesCalendar s (memGetDateTimes k t) := by
  induction k generalizing t with
  | zero => exact h
  | succ k ih => exact ih (sameBesidesCalendar_memGetDateTime h)

/-- While the calendar holds still the first two snapshots are what its registers decode to. -/
theorem Holds.snapshots {c : Calendar} (h : Holds (n + 7 + 7) c s) (ha : Answers s) :
    snapshotAt 0 s = snapshotOf c ∧ snapshotAt 1 s = snapshotOf c ∧ Holds n c (memGetDateTimes 2 s) := by
  obtain ⟨hfirst, hnext⟩ := h.snapshot ha
  obtain ⟨hsecond, hlast⟩ := hnext.snapshot (by simpa [Answers] using ha)
  exact ⟨hfirst, hsecond, hlast⟩

end

end Sys2Proof.Machine

open Sys2Proof Sys2Proof.Machine

/-- Settles O41: the operation is a loop that ends with the first two snapshots that agree, or with its retries. -/
theorem atomicGet : Obligations.AtomicGet := by
  refine ⟨fun s rest hidle hinbox habsent => ?_, fun s hrest hpar => ?_⟩
  · have hillegal := hostDecode_of_absentOption (i := .getdtA) rfl rfl rfl
    refine ⟨?_, hillegal⟩
    rw [step_of_idle hidle hinbox]
    simp only [takeInput, hostCommand, habsent, hillegal]
  · obtain ⟨t, hexec, ht, hrest', henv⟩ := (snapshotsUntilEqual_computes s.par.atomicRetryMax).perform hrest
    rw [← getdtAProg_of_present hpar] at hexec
    have hends {k : Nat} {torn : Bool} (h : EndsAfter s.par.atomicRetryMax k torn s) :
        t = respond (snapshotResult (snapshotAt (k + 1) s) torn) (memGetDateTimes (k + 2) s) ∧
          (getdtAProg s.par).trace s = (List.replicate (k + 2) snapshotReadEvents).flatten := by
      obtain ⟨hanswer, htrace⟩ := h
      rw [getdtAProg_of_present hpar, ht, hanswer]
      exact ⟨rfl, htrace⟩
    obtain ⟨k, torn, hend, htorn⟩ := exists_endsAfter s.par.atomicRetryMax hrest
    obtain ⟨hk, -⟩ := hends hend
    have hstatus : t.status = packStatus (snapshotAt (k + 1) s).derr torn false := congrArg State.status hk
    have hsame : SameBesidesCalendar s t := by
      rw [hk]
      exact (sameBesidesCalendar_memGetDateTimes (k + 2) ⟨rfl, rfl, fun _ => rfl⟩).respond _
    refine ⟨rfl, t, hexec, ht, hrest', henv, hsame, by rw [hstatus, statusIll_packStatus],
      by rw [hstatus, statusTorn_packStatus, htorn], fun j hj hne heq => ?_, fun hset => ?_, fun hanswers hstill => ?_⟩
    · rw [← heq]
      exact hends (endsAfter_of_agree hrest hj hne heq)
    · rw [hstatus, statusTorn_packStatus, htorn] at hset
      exact hends (endsAfter_of_disagree hrest hset)
    · have hholds : Holds (0 + 7 + 7) s.regs.cal s := ⟨rfl, hstill⟩
      obtain ⟨hfirst, hsecond, hcal, -⟩ := hholds.snapshots hanswers
      obtain ⟨hone, -⟩ := hends (endsAfter_at_once hrest (hsecond.trans hfirst.symm) _)
      rw [hone, respond_res, respond_status, respond_regs, hsecond]
      exact ⟨rfl, rfl, hcal⟩
end

section
/-! PROOFS. RAM access: the address formula (O6), GETRAM and SETRAM (O43, O44), and the laws of the pair (O45). -/

namespace Sys2Proof.Machine

/-- The read address of a RAM slot names the slot (46_ram.md R200). -/
theorem readPlace_ramReadAddr (slot : Half) : readPlace (ramReadAddr slot) = some (.ram (ramSlot slot)) := by
  have hplace : ∀ n < 31, readPlace (BitVec.ofNat 8 (0xC0 + n * 2 + 1)) = some (.ram n) := by decide
  exact hplace _ (Nat.mod_lt _ (by decide))

/-- GETRAM is RDREG of the slot's read address (46_ram.md R201). -/
theorem getramProg_eq (slot : Half) : getramProg slot = rdregProg (ramReadAddr slot) := rfl

theorem exec_getram (slot : Half) (s : State) : exec (.getram slot) s = exec (.rdreg (ramReadAddr slot)) s := rfl

/-- SETRAM is WRPROT of the slot's write address (46_ram.md R202). -/
theorem setramProg_eq (slot : Half) (v : Byte) : setramProg slot v = wrprotProg (ramWriteAddr slot) v := rfl

theorem exec_setram (slot : Half) (v : Byte) (s : State) :
    exec (.setram slot v) s = exec (.wrprot (ramWriteAddr slot) v) s := rfl

theorem storeAt_ramSlot_cal (d : RegFile) (n : Nat) (v : Byte) : (storeAt d (.ram n) v).cal = d.cal := by
  unfold storeAt
  split <;> rfl

/-- A write frame of a RAM slot, accepted or not, leaves the calendar to its TICK steps. -/
theorem memWrite_ramSlot_cal (a v : Byte) (n : Nat) (s : State) :
    (memWrite a v (.ram n) s).regs.cal = (frameTicks s).regs.cal := by
  unfold memWrite
  split
  · exact storeAt_ramSlot_cal (frameTicks s).regs n v
  · rfl

/-- A protected write of a RAM slot leaves a calendar that holds still as it was (46_ram.md R202). -/
theorem Holds.writeProtected_ramSlot {m : Nat} {c : Calendar} {s : State} (h : Holds (m + 3) c s) (a v : Byte)
    (n : Nat) : Holds m c (memWriteProtected a v (.ram n) s) := by
  have hwritten : Holds (m + 1) c (memWrite a v (.ram n) (memUnlock s)) :=
    h.unlock.frame (memWrite_ramSlot_cal a v n _) (memWrite_ticks a v _ _)
  exact hwritten.frame (memWrite_wp_cal _ _ _) (memWrite_ticks _ _ _ _)

end Sys2Proof.Machine

open Sys2Proof Sys2Proof.Machine

/-- Settles O6: a remainder by 31 names one of the 31 slots, whose addresses fit a byte. -/
theorem ramAddressFormula : Obligations.RamAddressFormula := by
  intro slot
  obtain ⟨-, -, hreadAddr, -⟩ := widthsFit
  have hwriteAddr : (ramWriteAddr slot).toNat = 0xC0 + slot.toNat % 31 * 2 :=
    Nat.mod_eq_of_lt (by rw [ramSlot]; omega)
  exact ⟨hwriteAddr, (hreadAddr slot).1, writePlace_ramWriteAddr slot, readPlace_ramReadAddr slot⟩

/-- Settles O43: the operation is RDREG of the slot's read address, and no TICK before its frame touches the RAM. -/
theorem getRam : Obligations.GetRam := by
  intro slot s hrest
  obtain ⟨hevents, -, hexec, hread, -, hregs, hrest', henv⟩ :=
    (readRegister : Obligations.ReadRegister) (ramReadAddr slot) s hrest (bitOf_ramReadAddr slot)
  refine ⟨getramProg_eq slot ▸ hevents, rfl, _, (exec_getram slot s).trans hexec, rfl, fun hanswers => ?_, hregs,
    hrest', henv⟩
  rw [respond_res, hread _ hanswers (readPlace_ramReadAddr slot), placeRead, frameTicks_ram]
  rfl

/-- Settles O44: the operation is WRPROT of the slot's write address, whose three frames leave the calendar to their
TICK steps. -/
theorem setRam : Obligations.SetRam := by
  intro slot v s hrest hw
  obtain ⟨hwrprot, -⟩ : Obligations.WriteProtected := writeProtected
  obtain ⟨hevents, -, t, hexec, ht, hrest', henv, hwp, -, -, hram⟩ :=
    hwrprot _ v _ s hrest hw (writePlace_ramWriteAddr slot)
  refine ⟨setramProg_eq slot v ▸ hevents, rfl, t, (exec_setram slot v s).trans hexec, ht, hwp, ?_, hrest', henv,
    fun hl n => ?_, fun hstill => ?_⟩
  · rw [ht, respond_regs, memWriteProtected_ctl (by simp)]
  · simpa [ramSlot, eq_comm] using hram hl n
  · have hholds : Holds (0 + 3) s.regs.cal s := ⟨rfl, hstill⟩
    obtain ⟨hcal, -⟩ := hholds.writeProtected_ramSlot (ramWriteAddr slot) v (ramSlot slot)
    rw [ht, respond_regs, hcal]

/-- Settles O45: GETRAM answers the byte of its cell, and SETRAM changed that of its own only. -/
theorem ramLaws : Obligations.RamLaws := by
  rintro a b v s ⟨hrest, hanswers⟩ hw
  obtain ⟨-, -, t, hset, -, -, -, hrestT, ⟨-, hpar, -⟩, hram, -⟩ := setRam a v s hrest hw
  have hanswersT : Answers t := by rwa [Answers, hpar]
  obtain ⟨-, -, u, hgetT, -, hu, -⟩ := getRam b t hrestT
  obtain ⟨-, -, x, hgetS, -, hx, -⟩ := getRam b s hrest
  refine ⟨t, u, x, hset, hgetT, hgetS, ?_⟩
  rw [hu hanswersT, hx hanswers, hram hanswers.listens, apply_ite zext16]
end

section
/-! PROOFS. Timekeeping: a TICK and the line events it may be moved past (O16), what a TICK does (O35), and the
reference `tick_next` (O36). -/

namespace Sys2Proof.Machine

/-! ### Line events that do not reach the register file (47_device_target.md R222)

Each reaction of the device below neither reads nor writes the register file, so a TICK before it may come after it. -/

theorem readData_tick (s : State) : readData (tick s) = ((readData s).1, tick (readData s).2) := by
  have hdrives : deviceDrives (tick s) = deviceDrives s := rfl
  by_cases hbad : s.par.link = .badBus
  · simp only [readData, hdrives, tick_dir, tick_par, hbad, if_true]
    split <;> rfl
  · simp only [readData, hdrives, tick_dir, tick_par, hbad, if_false]
    split <;> rfl

/-- A rising edge in the command byte other than its last. -/
theorem captureCommand_tick {s : State} (h : s.bus.cnt ≠ 7) : captureCommand (tick s) = tick (captureCommand s) := by
  have hcnt : s.bus.cnt + 1 ≠ 8 := by omega
  obtain ⟨b, n, hread⟩ := readData_eq s
  simp only [captureCommand, readData_tick, hread, tick_bus, if_neg hcnt]
  rfl

/-- A rising edge in the data byte of a write other than its last. -/
theorem captureData_tick {s : State} (h : s.bus.cnt ≠ 15) : captureData (tick s) = (captureData s).map tick := by
  have hcnt : s.bus.cnt + 1 ≠ 16 := by omega
  obtain ⟨b, n, hread⟩ := readData_eq s
  simp only [captureData, readData_tick, hread, tick_bus, if_neg hcnt]
  rfl

theorem clkRise_tick {s : State} (h7 : s.bus.cnt ≠ 7) (h15 : s.bus.cnt ≠ 15) :
    clkRise (tick s) = (clkRise s).map tick := by
  have hlistens : deviceListens (tick s) = deviceListens s := rfl
  simp only [clkRise, hlistens, captureCommand_tick h7, captureData_tick h15, tick_cs, tick_bus]
  split_ifs <;> rfl

theorem clkFall_tick (s : State) : clkFall (tick s) = tick (clkFall s) := by
  have hlistens : deviceListens (tick s) = deviceListens s := rfl
  simp only [clkFall, hlistens, tick_cs, tick_bus, apply_ite tick]
  rfl

/-- The fall of CS where no write frame is open. -/
theorem csFall_tick {s : State} (h : writeOpen s.bus = false) : csFall (tick s) = (csFall s).map tick := by
  simp only [csFall, tick_bus, h, Bool.and_false]
  rfl

theorem tickTimes_tick (n : Nat) (s : State) : tickTimes n (tick s) = tick (tickTimes n s) := by
  induction n generalizing s with
  | zero => rfl
  | succ n ih => exact ih (tick s)

/-- The TICK steps before a frame and one more may come in either order. -/
theorem frameTicks_tick (s : State) : frameTicks (tick s) = tick (frameTicks s) := by
  unfold frameTicks
  dsimp only [tick_ticks]
  split
  · rfl
  · next n rest _ => exact tickTimes_tick n { s with ticks := rest }

/-- A TICK may be moved past every line event but the rising edges that complete a byte and the fall of CS that cuts a
write (47_device_target.md R217, R218, R219). -/
theorem lineEvent_tick {e : LineEvent} {s : State} (hrise : e = .clk true → s.bus.cnt ≠ 7 ∧ s.bus.cnt ≠ 15)
    (hcut : e = .cs false → writeOpen s.bus = false) :
    lineEvent e (tick s) = (lineEvent e s).map fun x => (x.1, tick x.2) := by
  cases e with
  | cs b =>
    cases b with
    | true =>
      simp only [lineEvent, frameTicks_tick, tick_cs]
      split_ifs <;> rfl
    | false =>
      simp only [lineEvent, csFall_tick (hcut rfl), tick_cs]
      split_ifs
      · cases csFall s <;> rfl
      · rfl
  | clk b =>
    cases b with
    | true =>
      obtain ⟨h7, h15⟩ := hrise rfl
      simp only [lineEvent, clkRise_tick h7 h15, tick_clk]
      split_ifs
      · rfl
      · cases clkRise s <;> rfl
    | false =>
      simp only [lineEvent, clkFall_tick, tick_clk]
      split_ifs <;> rfl
  | dir d => rfl
  | dout b => rfl
  | sample =>
    rw [lineEvent, readData_tick]
    rfl

/-! ### A TICK input (47_device_target.md R245) -/

/-- A TICK at the head of the inputs is the step, whether or not a command runs. -/
theorem step_of_tick {s : State} {rest : List Input} (h : s.inbox = .tick :: rest) :
    step s = .next (tick { s with inbox := rest }) := by
  unfold step
  split
  · simp only [stepIdle, h, takeInput]
  · simp only [stepRunning, h]

/-! ### The reference `tick_next` (47_device_target.md R247) -/

/-- A byte without a decode error shows a value in the field's range. -/
theorem bcdToDecimal_le_fieldMax {f : Field} {b : Byte} (h : decodeErr f b = false) :
    bcdToDecimal b.toNat ≤ fieldMax f := by
  by_contra hgt
  simp [decodeErr_iff.2 (.inr (.inr (not_le.1 hgt)))] at h

theorem bcdToDecimal_bcdByte {n : Nat} (h : n ≤ 99) : bcdToDecimal (bcdByte n).toNat = n := by
  rw [bcdByte, toNat_ofNat_decimalToBcd h, bcdToDecimal_decimalToBcd]

theorem fieldMax_le (f : Field) : fieldMax f ≤ 99 := by cases f <;> decide

/-- The byte of a value in the field's range has no decode error. -/
theorem decodeErr_bcdByte {f : Field} {n : Nat} (h : n ≤ fieldMax f) : decodeErr f (bcdByte n) = false := by
  have hn : n ≤ 99 := h.trans (fieldMax_le f)
  have hvalid : bcdValid (bcdByte n) = true := bcdValid_decimalToBcd hn
  simp [decodeErr, hvalid, bcdToDecimal_bcdByte hn, h]

/-- The time registers of `c` show the time `h:m:s`, each in its range. -/
def ShowsTime (c : Calendar) (h m s : Nat) : Prop :=
  (bcdToDecimal c.hr.toNat = h ∧ decodeErr .hour c.hr = false) ∧
  (bcdToDecimal c.min.toNat = m ∧ decodeErr .minute c.min = false) ∧
  (bcdToDecimal c.sec.toNat = s ∧ decodeErr .second c.sec = false)

theorem ShowsTime.timeOfDay {c : Calendar} {h m s : Nat} (hc : ShowsTime c h m s) :
    timeOfDay c = h * 3600 + m * 60 + s := by
  obtain ⟨⟨rfl, -⟩, ⟨rfl, -⟩, rfl, -⟩ := hc
  rfl

/-- Valid registers show a time of the day. -/
theorem showsTime_of_valid {c : Calendar} (hc : calendarValid c = true) :
    ∃ h m s, h ≤ 23 ∧ m ≤ 59 ∧ s ≤ 59 ∧ ShowsTime c h m s := by
  simp only [calendarValid, Bool.and_eq_true, Bool.not_eq_true'] at hc
  obtain ⟨⟨⟨⟨⟨⟨hs, hm⟩, hh⟩, -⟩, -⟩, -⟩, -⟩ := hc
  exact ⟨_, _, _, bcdToDecimal_le_fieldMax hh, bcdToDecimal_le_fieldMax hm, bcdToDecimal_le_fieldMax hs,
    ⟨rfl, hh⟩, ⟨rfl, hm⟩, rfl, hs⟩

/-- A register set to the byte of a value in the field's range shows that value. -/
theorem shows_bcdByte {f : Field} {n : Nat} (h : n ≤ fieldMax f) :
    bcdToDecimal (bcdByte n).toNat = n ∧ decodeErr f (bcdByte n) = false :=
  ⟨bcdToDecimal_bcdByte (h.trans (fieldMax_le f)), decodeErr_bcdByte h⟩

/-- The reference `tick_next` on valid registers: the time goes on to the next second of the day, the date staying, or
it is midnight and the next date. -/
theorem refTick_cases {c : Calendar} {h m s : Nat} (hc : calendarValid c = true) (hh : h ≤ 23) (hm : m ≤ 59)
    (hs : s ≤ 59) (ht : ShowsTime c h m s) :
    ∃ h' m' s', ShowsTime (refTick c) h' m' s' ∧
      ((h' * 3600 + m' * 60 + s' = h * 3600 + m * 60 + s + 1 ∧ h * 3600 + m * 60 + s + 1 < 86400 ∧
          dateOf (refTick c) = dateOf c) ∨
        (h' * 3600 + m' * 60 + s' = 0 ∧ h * 3600 + m * 60 + s + 1 = 86400 ∧
          dateOf (refTick c) = Config.nextDate (dateOf c))) := by
  obtain ⟨hhour, hminute, hsecond⟩ := ht
  have hzero (f : Field) := shows_bcdByte (f := f) (Nat.zero_le _)
  simp only [refTick, if_pos hc, hhour.1, hminute.1, hsecond.1]
  split
  · next hlt =>
    exact ⟨h, m, s + 1, ⟨hhour, hminute, shows_bcdByte (Nat.le_of_lt_succ hlt)⟩, .inl ⟨by omega, by omega, rfl⟩⟩
  split
  · next hlt =>
    exact ⟨h, m + 1, 0, ⟨hhour, shows_bcdByte (Nat.le_of_lt_succ hlt), hzero _⟩, .inl ⟨by omega, by omega, rfl⟩⟩
  split
  · next hlt =>
    exact ⟨h + 1, 0, 0, ⟨shows_bcdByte (Nat.le_of_lt_succ hlt), hzero _, hzero _⟩, .inl ⟨by omega, by omega, rfl⟩⟩
  · exact ⟨0, 0, 0, ⟨hzero _, hzero _, hzero _⟩, .inr ⟨rfl, by omega, rfl⟩⟩

end Sys2Proof.Machine

open Sys2Proof Sys2Proof.Machine

/-- Settles O16: the line events left touch no register, and a TICK touches nothing else. -/
theorem tickMovesPastLineEvents : Obligations.TickMovesPastLineEvents := by
  intro e s hrise hcut
  rw [lineEvent_tick hrise hcut]
  cases lineEvent e s <;> rfl

/-- Settles O35: the two cases are those of the clock-halt bit, which no `tick_next` sets. -/
theorem tickEffect : Obligations.TickEffect := by
  refine ⟨fun s h => ?_, fun s h => ?_, bitOf_tickCalendar_sec, fun s rest => step_of_tick⟩
  · rw [tick, regsTick_of_halted _ h]
  · rw [tick, regsTick_of_running _ h]

/-- Settles O36: the registers show the next second of the day, or midnight and the next date. -/
theorem referenceTick : Obligations.ReferenceTick := by
  intro c hc
  obtain ⟨h, m, s, hh, hm, hs, ht⟩ := showsTime_of_valid hc
  obtain ⟨h', m', s', ht', hcase⟩ := refTick_cases hc hh hm hs ht
  rw [ht.timeOfDay, ht'.timeOfDay]
  obtain ⟨⟨-, hhour⟩, ⟨-, hminute⟩, -, hsecond⟩ := ht'
  obtain ⟨htime, hday, hdate⟩ | ⟨htime, hday, hdate⟩ := hcase
  · rw [htime, Nat.mod_eq_of_lt hday, if_neg hday.ne]
    exact ⟨rfl, hsecond, hminute, hhour, hdate⟩
  · rw [htime, hday, Nat.mod_self, if_pos rfl]
    exact ⟨rfl, hsecond, hminute, hhour, hdate⟩
end

section
/-! PROOFS. The device on its own: what it ignores while CS is low (O14), and its bus commands (O46, O47, O48). -/

namespace Sys2Proof.Machine

/-! ### Line events that no device reacts to (47_device_target.md R211, 60_exceptions.md R252) -/

/-- The line events pass the device by: it is not selected, or there is none. -/
def Unheard (s : State) : Prop := s.cs = false ∨ s.par.link = .absent

theorem clkRise_of_unheard {s : State} (h : Unheard s) : clkRise s = .ok s := by
  obtain h | h := h <;> simp [clkRise, deviceListens, h]

theorem clkFall_of_unheard {s : State} (h : Unheard s) : clkFall s = s := by
  obtain h | h := h <;> simp [clkFall, deviceListens, h]

/-- CS falls on a device that is not in the middle of a write, or on none. -/
theorem csFall_of_closed {s : State} (h : writeOpen s.bus = false ∨ s.par.link = .absent) :
    csFall s = .ok (endFrame s) := by
  obtain h | h := h <;> simp [csFall, deviceListens, h]

/-- No line event that passes the device by changes a register or the bus slave, but the rise of CS, before which TICK
steps may fall. -/
theorem lineEvent_of_unheard {e : LineEvent} {s t : State} {b : Bool} (h : Unheard s) (hne : e ≠ .cs true)
    (he : lineEvent e s = .ok (b, t)) : t.regs = s.regs ∧ t.bus = s.bus ∧ t.ticks = s.ticks := by
  cases e with
  | cs c =>
    cases c with
    | true => exact (hne rfl).elim
    | false =>
      simp only [lineEvent] at he
      split at he
      · next hcs =>
        have hl : s.par.link = .absent := h.resolve_left (by simp [hcs])
        rw [csFall_of_closed (.inr hl)] at he
        cases he
        exact ⟨rfl, slaveIdle_of_absent hl, rfl⟩
      · cases he
        exact ⟨rfl, rfl, rfl⟩
  | clk c =>
    cases c with
    | true =>
      simp only [lineEvent, clkRise_of_unheard h] at he
      split at he <;> cases he <;> exact ⟨rfl, rfl, rfl⟩
    | false =>
      simp only [lineEvent, clkFall_of_unheard h] at he
      cases he
      split <;> exact ⟨rfl, rfl, rfl⟩
  | dir d =>
    cases he
    exact ⟨rfl, rfl, rfl⟩
  | dout c =>
    cases he
    exact ⟨rfl, rfl, rfl⟩
  | sample =>
    obtain ⟨c, n, hread⟩ := readData_eq s
    rw [lineEvent, hread] at he
    cases he
    exact ⟨rfl, rfl, rfl⟩

/-! ### Bus commands and their command bytes (47_device_target.md R225 to R244) -/

theorem exec_readInstr (r : Reg) (s : State) :
    exec (readInstr r) s = .next (busRead (regReadAddr r) (regRead s.regs r) s) := by
  cases r <;> rfl

theorem exec_writeInstr (r : Reg) (d : Byte) (s : State) :
    exec (writeInstr r d) s = .next (busWrite (regWriteAddr r) d (.reg r) s) := by
  cases r <;> rfl

theorem encode_readInstr (r : Reg) : encode (readInstr r) = .bus (frameOf (regReadAddr r) 0#8) := by
  cases r <;> rfl

theorem encode_writeInstr (r : Reg) (d : Byte) : encode (writeInstr r d) = .bus (frameOf (regWriteAddr r) d) := by
  cases r <;> rfl

theorem exec_rdRam {n : BitVec 5} (h : slotEncodable n = true) (s : State) :
    exec (.rdRam n) s = .next (busRead (ramCommandRead n) (Memory.read s.regs.ram n.toNat) s) := by
  rw [exec, execRdRam, if_pos h]

theorem exec_wrRam {n : BitVec 5} (h : slotEncodable n = true) (d : Byte) (s : State) :
    exec (.wrRam n d) s = .next (busWrite (ramCommandWrite n) d (.ram n.toNat) s) := by
  rw [exec, execWrRam, if_pos h]

/-- The command byte of a RAM slot is made of its bits as the addresses of 20_memory.md R61 are counted. -/
theorem ramCommand_eq_ramCommandRead (n : BitVec 5) : ramCommand n 1#1 = ramCommandRead n := by
  decide +revert

@[inherit_doc ramCommand_eq_ramCommandRead]
theorem ramCommand_eq_ramCommandWrite (n : BitVec 5) : ramCommand n 0#1 = ramCommandWrite n := by
  decide +revert

theorem encode_rdRam (n : BitVec 5) : encode (.rdRam n) = .bus (frameOf (ramCommandRead n) 0#8) := by
  rw [encode, ramCommand_eq_ramCommandRead]

theorem encode_wrRam (n : BitVec 5) (d : Byte) : encode (.wrRam n d) = .bus (frameOf (ramCommandWrite n) d) := by
  rw [encode, ramCommand_eq_ramCommandWrite]

/-! ### A bus command is the device's own (log entry 10) -/

theorem sameController_busRead (a v : Byte) (s : State) : SameController s (busRead a v s) :=
  ⟨rfl, rfl, rfl, rfl, rfl, rfl, ⟨rfl, rfl, rfl⟩, rfl⟩

theorem sameController_busWrite (a v : Byte) (p : Place) (s : State) : SameController s (busWrite a v p s) :=
  ⟨rfl, rfl, rfl, rfl, rfl, rfl, ⟨rfl, rfl, rfl⟩, rfl⟩

theorem sameController_readUnmapped (c : Byte) (s : State) : SameController s (readUnmapped c s) :=
  ⟨rfl, rfl, rfl, rfl, rfl, rfl, ⟨rfl, rfl, rfl⟩, rfl⟩

/-- A write at a RAM slot leaves every named register alone, accepted or not. -/
theorem regRead_storeAt_ram (d : RegFile) (n : Nat) (v : Byte) (q : Reg) :
    regRead (storeAt d (.ram n) v) q = regRead d q := by
  unfold storeAt
  split
  · exact regRead_ramUpdate d _ q
  · rfl

/-- A frame that decodes to no bus command is the device's to answer or the model's to refuse (30_encoding.md R93). -/
theorem takeInput_frame_unmapped {s : State} {f : Frame} {r : Reject} (h : decodeFrame f = .error r) :
    takeInput (.frame f) s = unmappedFrame (commandByteOf f) s := by
  simp only [takeInput, busFrame, h]

end Sys2Proof.Machine

open Sys2Proof Sys2Proof.Machine

/-- Settles O14: with CS low every line event but the rise of CS passes the device by. -/
theorem deselectedDeviceIgnores : Obligations.DeselectedDeviceIgnores := by
  intro e s b t hcs hne he
  obtain ⟨hregs, hbus, -⟩ := lineEvent_of_unheard (.inl hcs) hne he
  exact ⟨hregs, hbus⟩

/-- Settles O46: a read command latches the byte of its place and touches nothing else. -/
theorem busReadCommands : Obligations.BusReadCommands :=
  ⟨fun r s => ⟨_, exec_readInstr r s, rfl, rfl, sameController_busRead _ _ s, encode_readInstr r⟩,
    fun n s h => ⟨_, exec_rdRam h s, rfl, rfl, sameController_busRead _ _ s, encode_rdRam n⟩⟩

/-- Settles O47: a write command is one `DevWrite`, which the latch rejects as a whole unless it addresses WP. -/
theorem busWriteCommands : Obligations.BusWriteCommands := by
  refine ⟨fun r d s => ⟨_, exec_writeInstr r d s, sameController_busWrite _ _ _ s, storeAt_ram _ _ _, fun q => ?_,
    encode_writeInstr r d⟩, fun n d s h hw => ⟨_, exec_wrRam h d s, sameController_busWrite _ _ _ s,
    regRead_storeAt_ram _ _ _, fun k => ?_, encode_wrRam n d⟩⟩
  · simp only [busWrite_regs, regRead_storeAt, accepts_eq_true_iff, Place.reg.injEq]
  · have hslot := placeRead_storeAt hw (.ram n.toNat) (.ram k) d
    simpa only [busWrite_regs, placeRead, accepts_eq_true_iff, Place.ram.injEq, reduceCtorEq, false_or] using hslot

/-- Settles O48: the direction bit of the unmapped command byte tells the draw that answers a read from the write that
is refused. -/
theorem unmappedFrames : Obligations.UnmappedFrames := by
  intro s f rest hidle hinbox h
  have hstep : step s = unmappedFrame (commandByteOf f) { s with inbox := rest } :=
    (step_of_idle hidle hinbox).trans (takeInput_frame_unmapped h)
  refine ⟨fun hread => ⟨_, hstep.trans (if_pos hread), rfl, rfl, rfl, sameController_readUnmapped _ _⟩,
    fun hwrite => ?_⟩
  rw [hstep, unmappedFrame, if_neg (by simp [hwrite])]
end

section
/-! PROOFS. The command port on the spec's own words (O4) and on illegal ones (O8), and the controller reset (O56,
O57). -/

namespace Sys2Proof.Machine

/-! ### The refused command (60_exceptions.md R253) -/

/-- A word that does not decode is refused in the step that presents it, in either way of running a command. -/
theorem takeInput_illegal {x : Input} {s : State} {w : CmdWord} {r : Reject} (hx : x = .host w ∨ x = .hostByLine w)
    (h : hostDecode s.par.hasAtomicDT w = .error r) : takeInput x s = .next (refuseCommand s) := by
  obtain rfl | rfl := hx
  · simp only [takeInput, hostCommand, h]
  · simp only [takeInput, hostCommandByLine, h]

/-- However the line events of a snapshot fall, the loop of GETDT.A does not answer as an illegal word. -/
theorem rereadUntilEqual_notIllegal (n : Nat) (x : Snapshot) :
    (rereadUntilEqual n x).AllAnswers fun r => statusIll r.status = false := by
  induction n generalizing x with
  | zero => exact .of_andThen _ fun y => statusIll_packStatus _ _ _
  | succ n ih =>
    rw [rereadUntilEqual]
    generalize getDateTime = snapshot
    refine .of_andThen _ fun y => ?_
    split
    · exact statusIll_packStatus _ _ _
    · exact ih y

/-- The gets and the snapshots, if their option is present, do not answer as an illegal word. -/
theorem operation_notIllegal {par : Params} {i : Instr} {p : Ctrl Response} (hp : operation par i = some p)
    (hflags : raisesFlags i = true) (hoption : i.isOptional = true → par.hasAtomicDT = true) :
    p.AllAnswers fun r => statusIll r.status = false := by
  cases i <;> cases hp
  case getSec | getMin | getHr | getDay | getMon | getWday | getYr | getdt =>
    exact .of_andThen _ fun _ => statusIll_packStatus _ _ _
  case getdtA =>
    rw [getdtAProg, if_pos (hoption rfl)]
    exact .of_andThen _ (rereadUntilEqual_notIllegal _)
  all_goals cases hflags

/-! ### The reset input (70_reset_and_hazards.md R280, R281) -/

/-- A reset at the head of the inputs is the step, whether or not a command runs. -/
theorem step_of_reset {s : State} {rest : List Input} (h : s.inbox = .reset :: rest) :
    step s = resetInput { s with inbox := rest } := by
  unfold step
  split
  · simp only [stepIdle, h, takeInput]
  · simp only [stepRunning, h]

/-- With CS low a reset sets the controller's values and reaches no device. -/
theorem resetInput_of_low {s : State} (h : s.cs = false) : resetInput s = .next (resetController s) := by
  simp [resetInput, applyReset, h]

/-- With CS high a reset is the fall of CS and then the controller's values. -/
theorem resetInput_of_csFall {s t : State} (h : s.cs = true) (hfall : csFall s = .ok t) :
    resetInput s = .next (resetController t) := by
  simp [resetInput, applyReset, h, hfall]

/-- With CS high a reset is refused where the fall of CS is. -/
theorem resetInput_of_csFall_error {s : State} {r : Refusal} (h : s.cs = true) (hfall : csFall s = .error r) :
    resetInput s = .refused r := by
  simp [resetInput, applyReset, h, hfall]

/-- A reset that cuts no write frame of a device leaves its registers alone. -/
theorem resetInput_of_closed {s : State} (h : s.cs = false ∨ writeOpen s.bus = false ∨ s.par.link = .absent) :
    ∃ u, resetInput s = .next (resetController u) ∧ u.regs = s.regs ∧ u.inbox = s.inbox := by
  cases hcs : s.cs with
  | false => exact ⟨s, resetInput_of_low hcs, rfl, rfl⟩
  | true => exact ⟨_, resetInput_of_csFall hcs (csFall_of_closed (by simpa [hcs] using h)), rfl, rfl⟩

/-- CS falls in the middle of a write: the place addressed holds a draw (47_device_target.md R219). -/
theorem csFall_of_cut {s : State} {p : Place} (hl : Listens s) (hopen : writeOpen s.bus = true)
    (hp : writePlace s.bus.cmd = some p) :
    csFall s = .ok (endFrame
      { s with regs := placeWrite s.regs p (Config.anyByte s.draws), draws := s.draws + 1 }) := by
  simp [csFall, deviceListens_iff.2 hl, hopen, cutWrite, hp, drawByte]

/-- CS falls in the middle of a write to an unmapped address (47_device_target.md R224, log entry 13). -/
theorem csFall_of_cut_unmapped {s : State} (hl : Listens s) (hopen : writeOpen s.bus = true)
    (hp : writePlace s.bus.cmd = none) : csFall s = .error .unmappedWrite := by
  simp [csFall, deviceListens_iff.2 hl, hopen, cutWrite, hp]

end Sys2Proof.Machine

open Sys2Proof Sys2Proof.Machine

/-- Settles O4: a finite table of words, each of which the decoder is run on. -/
theorem specWordsDecode : Obligations.SpecWordsDecode := by
  unfold Obligations.SpecWordsDecode
  decide

/-- Settles O8: the port refuses the word whichever way it would run it, and a legal command answers 0 or what a get or
a snapshot answers. -/
theorem illegalWordRefused : Obligations.IllegalWordRefused := by
  refine ⟨fun s w r rest hidle hinbox h => ?_, fun s t w i hdecode hexec => ?_⟩
  · obtain ⟨x, hx, hinbox⟩ : ∃ x, (x = .host w ∨ x = .hostByLine w) ∧ s.inbox = x :: rest := by
      obtain hinbox | hinbox := hinbox
      · exact ⟨_, .inl rfl, hinbox⟩
      · exact ⟨_, .inr rfl, hinbox⟩
    exact (step_of_idle hidle hinbox).trans (takeInput_illegal hx h)
  · cases hflags : raisesFlags i with
    | false =>
      rw [flagsFromGetsOnly s t w i hdecode hflags hexec]
      rfl
    | true =>
      obtain ⟨hrow, hoption⟩ := decodeOp_of_hostDecode hdecode
      obtain ⟨p, hp⟩ := operation_of_decodeOp hrow s.par
      rw [exec_of_operation hp] at hexec
      obtain ⟨r, u, hrun, rfl⟩ := perform_eq_next.1 hexec
      exact (operation_notIllegal hp hflags hoption).run hrun

/-- Settles O56: at rest CS has no edge to fall by. -/
theorem resetBetweenCommands : Obligations.ResetBetweenCommands := fun _ _ hrest _ hinbox =>
  (step_of_reset hinbox).trans (resetInput_of_low hrest.1)

/-- Settles O57: what a reset does to the device is what the fall of CS does, and that depends on whether a write frame
is open on it. -/
theorem resetDuringCommand : Obligations.ResetDuringCommand := by
  intro s i done rest _ hinbox
  rw [step_of_reset hinbox]
  refine ⟨fun hclosed => ?_, fun p hl hcs hopen hw hp => ?_, fun hl hcs hopen hp => ?_⟩
  · obtain ⟨u, hreset, hregs, hinputs⟩ := resetInput_of_closed (s := { s with inbox := rest }) hclosed
    exact ⟨_, hreset, hregs, rfl, rfl, rfl, rfl, rfl, rfl, rfl, hinputs⟩
  · have hfall := csFall_of_cut (s := { s with inbox := rest }) hl hopen hp
    have hidle := slaveIdle_of_listens (s := { s with inbox := rest }) hl
    exact ⟨_, resetInput_of_csFall hcs hfall, fun q => placeRead_placeWrite hw p q _, rfl, rfl, rfl, rfl, rfl, rfl,
      rfl, rfl, congrArg BusSlave.cnt hidle, congrArg BusSlave.drv hidle⟩
  · exact resetInput_of_csFall_error hcs (csFall_of_cut_unmapped (s := { s with inbox := rest }) hl hopen hp)
end

section
/-! PROOFS. What a set does to any operand (O29) and to the clock (O30), how a halted clock reads (O31), and the TICK
steps inside START and STOP (O34). -/

namespace Sys2Proof.Machine

/-! ### The calendar under TICK (47_device_target.md R245) -/

/-- One TICK as the seven calendar registers see it. -/
def calendarTick (k : TickNext) (c : Calendar) : Calendar :=
  if bitOf c.sec 7 then c else tickCalendar k c

theorem regsTick_eq (k : TickNext) (d : RegFile) : regsTick k d = { d with cal := calendarTick k d.cal } := by
  unfold regsTick calendarTick halted
  split <;> rfl

/-- `n` TICK steps are `n` of the calendar, and nothing else changes. -/
theorem tickTimes_regs (n : Nat) (s : State) :
    (tickTimes n s).regs = { s.regs with cal := (calendarTick s.par.tickNext)^[n] s.regs.cal } := by
  induction n generalizing s with
  | zero => rfl
  | succ n ih => rw [tickTimes, ih, tick_regs, regsTick_eq, tick_par, Function.iterate_succ_apply]

/-- The TICK steps before a frame are the head of the schedule. -/
theorem frameTicks_regs_of_cons {s : State} {n : Nat} {rest : List Nat} (h : s.ticks = n :: rest) :
    (frameTicks s).regs = { s.regs with cal := (calendarTick s.par.tickNext)^[n] s.regs.cal } := by
  simp only [frameTicks, h]
  exact tickTimes_regs n { s with ticks := rest }

/-! ### A protected write of the seconds between TICK steps (70_reset_and_hazards.md R297) -/

/-- A protected write of the seconds: `i` TICK steps before the unlock frame and `j` before the write frame advance the
calendar, and the byte takes the place of the seconds. -/
theorem cal_memWriteProtected_sec {s : State} {i j : Nat} {rest : List Nat} {v : Byte} (hl : Listens s)
    (hticks : s.ticks = i :: j :: rest) (hstill : bitOf v 7 = true ∨ rest.head? = some 0) (a : Byte) :
    (memWriteProtected a v (.reg .sec) s).regs.cal =
      writeField ((calendarTick s.par.tickNext)^[i + j] s.regs.cal) .second v := by
  set u := memUnlock s with hu
  set w := memWrite a v (.reg .sec) u with hw
  have hunlock : u.regs.cal = (calendarTick s.par.tickNext)^[i] s.regs.cal := by
    rw [hu, memWrite_wp_cal, frameTicks_regs_of_cons hticks]
  have hwrite : w.regs.cal = writeField ((calendarTick s.par.tickNext)^[i + j] s.regs.cal) .second v := by
    have hcal := memWrite_field_cal (s := u) (f := .second) (by simpa [hu] using hl) (accepts_unlocked hl _) a v
    rw [frameTicks_regs_of_cons (n := j) (rest := rest) (by simp [hu, hticks]), hunlock, hu, memWrite_par,
      ← Function.iterate_add_apply, Nat.add_comm j i] at hcal
    exact hcal
  have hrelock : (frameTicks w).regs = w.regs := by
    obtain hv | hquiet := hstill
    · refine frameTicks_regs_of_halted ?_
      rw [halted, hwrite]
      exact hv
    · obtain ⟨rest', rfl⟩ := List.head?_eq_some_iff.1 hquiet
      refine frameTicks_regs_of_quiet (n := 0) ?_
      simp [quiet, hw, hu, hticks]
  rw [memWriteProtected, memWrite_wp_cal, hrelock, hwrite]

/-- The read-modify-write of the seconds, no TICK before its read frame: the byte read before the TICK steps is written
back after them. -/
theorem cal_memUpdateSeconds {f : Byte → Byte} {s : State} {i j : Nat} {rest : List Nat} (h : Answers s)
    (hticks : s.ticks = 0 :: i :: j :: rest)
    (hstill : bitOf (f s.regs.cal.sec) 7 = true ∨ rest.head? = some 0) :
    (memUpdateSeconds f s).regs.cal = writeField (tickTimes (i + j) s).regs.cal .second (f s.regs.cal.sec) := by
  have hread : (frameTicks s).regs = s.regs := frameTicks_regs_of_cons hticks
  have hbyte : (memRead (regReadAddr .sec) s).1 = s.regs.cal.sec := memRead_fst_of_still h hread
  rw [memUpdateSeconds, hbyte, cal_memWriteProtected_sec (by simpa using h.listens) (by rw [memRead_ticks, hticks]; rfl)
    hstill, memRead_par, memRead_regs, hread, tickTimes_regs]

/-! ### A halted clock read back (70_reset_and_hazards.md R296) -/

/-- The seconds of a halted clock: bit 7 beside the true seconds. -/
theorem toNat_haltedSeconds {n : Nat} (h : n < 60) :
    (BitVec.ofNat 8 (0x80 + decimalToBcd n)).toNat = 0x80 + decimalToBcd n := by
  have hle : decimalToBcd n ≤ decimalToBcd 59 := decimalToBcd_mono (by omega)
  exact Nat.mod_eq_of_lt (Nat.add_lt_add_left (hle.trans_lt (by decide : _ < 128)) 128)

theorem bitOf_haltedSeconds {n : Nat} (h : n < 60) : bitOf (BitVec.ofNat 8 (0x80 + decimalToBcd n)) 7 = true := by
  revert n
  decide

/-- Bit 7 counts as eight tens to the decoding (42_bcd_codec.md R142). -/
theorem bcdToDecimal_haltedSeconds {n : Nat} (h : n < 60) :
    bcdToDecimal (BitVec.ofNat 8 (0x80 + decimalToBcd n)).toNat = 80 + n := by
  rw [toNat_haltedSeconds h, bcdToDecimal, decimalToBcd]
  omega

/-- What a get of the seconds answers on a halted clock. -/
theorem fieldValue_haltedSeconds {n : Nat} (h : n < 60) :
    (fieldValue .second (BitVec.ofNat 8 (0x80 + decimalToBcd n))).toNat = (n + 20) % 60 := by
  rw [fieldValue, bcdToDecimal_haltedSeconds h, fieldPost, BitVec.toNat_ofNat]
  omega

/-- The clock-halt bit takes the seconds out of their valid range. -/
theorem decodeErr_haltedSeconds {n : Nat} (h : n < 60) :
    decodeErr .second (BitVec.ofNat 8 (0x80 + decimalToBcd n)) = true :=
  decodeErr_iff.2 (.inr (.inr (by rw [bcdToDecimal_haltedSeconds h]; simp only [fieldMax]; omega)))

/-- Without its upper bits the byte is that of the true seconds. -/
theorem bcdToDecimal_haltedSeconds_masked {n : Nat} (h : n < 60) :
    bcdToDecimal (zext16 (BitVec.ofNat 8 (0x80 + decimalToBcd n)) &&& 0x7F#16).toNat = n := by
  have hmasked : (zext16 (BitVec.ofNat 8 (0x80 + decimalToBcd n)) &&& 0x7F#16).toNat = decimalToBcd n := by
    revert n
    decide
  rw [hmasked, bcdToDecimal_decimalToBcd]

/-- The bits of `DERR` for the first and the last of seven gets (10_state.md R29). -/
theorem getLsbD_packDerr (e0 e1 e2 e3 e4 e5 e6 : Bool) :
    (packDerr e0 e1 e2 e3 e4 e5 e6).getLsbD 0 = e0 ∧ (packDerr e0 e1 e2 e3 e4 e5 e6).getLsbD 6 = e6 := by
  decide +revert

/-- A get raises its decode-error bit. -/
theorem statusDerr_getResult (v : Half) (err : Bool) : statusDerr (getResult v err).status 0 = err :=
  (statusDerr_packStatus _ _ _ (by decide)).trans (getLsbD_packDerr err false false false false false false).1

end Sys2Proof.Machine

open Sys2Proof Sys2Proof.Machine

/-- Settles O29: a set looks at the remainder of its operand only, and its response is empty. -/
theorem setWrapsSilently : Obligations.SetWrapsSilently := by
  refine ⟨fun f v w s h => ?_, fun f v s hrest => ?_⟩
  · rw [exec_setInstr, exec_setInstr, fieldByte, fieldByte, h]
  · exact ⟨_, (exec_setInstr f v s).trans (exec_wrprot hrest (writePlace_regWriteAddr _)), rfl⟩

/-- Settles O30: each operation ends with a protected write of the seconds, whose byte decides about the clock. -/
theorem secondsReleaseClock : Obligations.SecondsReleaseClock := by
  refine ⟨fun v s hrest hl => ?_, fun y mo d w h mi sec s hrest hl => ?_, fun v s hrest hl => ?_⟩
  · refine ⟨_, (exec_setInstr .second v s).trans (exec_wrprot hrest (writePlace_regWriteAddr _)), ?_⟩
    exact (halted_memWriteProtected hl _ _).trans (bitOf_fieldByte_second v)
  · obtain ⟨t, hexec, rfl, -⟩ :=
      ((setDateTime_computes y mo d w h mi sec).andThen_done fun _ => noResult).perform hrest
    refine ⟨_, hexec, ?_⟩
    exact (halted_memWriteProtected (by simpa using hl) _ _).trans (bitOf_fieldByte_second sec)
  · have hbit : bitOf (0x80#8 ||| fieldByte .second v) 7 = true := by simp [bitOf]
    exact ⟨_, exec_wrprot hrest (writePlace_regWriteAddr .sec), (halted_memWriteProtected hl _ _).trans hbit,
      sec_memWriteProtected_of_halting hl hbit _⟩

/-- Settles O31: a halted clock does not tick, so each operation reads the seconds as they stand, bit 7 with them. -/
theorem haltedReadback : Obligations.HaltedReadback := by
  rintro s n ⟨hrest, hanswers⟩ hn hsec
  have hhalted : halted s.regs = true := by rw [halted, hsec, bitOf_haltedSeconds hn]
  have hget : (memGet .second s).1 = (fieldValue .second s.regs.cal.sec, decodeErr .second s.regs.cal.sec) := by
    rw [memGet_fst hanswers, frameTicks_regs_of_halted hhalted]
    rfl
  have hvalue := fieldValue_haltedSeconds hn
  have herr := decodeErr_haltedSeconds hn
  rw [← hsec] at hvalue herr
  obtain ⟨-, -, u, hu, hresponse, -, -, -, -, -, -, hsnapshot⟩ :=
    (getDateTime : Obligations.GetDateTime) s hrest
  obtain ⟨hsnapshot, -⟩ := hsnapshot hanswers (.inr hhalted)
  obtain ⟨r, hr, hbyte, -⟩ := exec_rdreg_sec ⟨hrest, hanswers⟩ (frameTicks_regs_of_halted hhalted)
  refine ⟨_, u, r, exec_getInstr .second hrest, ?_, ?_, hu, ?_, ?_, hr, ?_⟩
  · rw [respond_res, hget]
    exact hvalue
  · rw [respond_status, hget, statusDerr_getResult]
    exact herr
  · rw [hresponse, respond_res, hsnapshot]
    exact hvalue
  · rw [hresponse, respond_status, hsnapshot]
    exact (statusDerr_packStatus _ _ _ (by decide)).trans ((getLsbD_packDerr ..).2.trans herr)
  · rw [hbyte, hsec]
    exact bcdToDecimal_haltedSeconds_masked hn

/-- Settles O34: the update writes back the seconds it read, whatever TICK steps fall before its write frame; after it
STOP's byte lets none fall. -/
theorem stopStartRace : Obligations.StopStartRace := by
  constructor
  · rintro s i j rest ⟨hrest, hanswers⟩ hticks
    refine ⟨_, exec_stop hrest, ?_⟩
    exact cal_memUpdateSeconds (f := (· ||| 0x80#8)) hanswers hticks (.inl (bitOf_or_0x80 _))
  · rintro s i j rest ⟨hrest, hanswers⟩ hticks
    refine ⟨_, exec_start hrest, ?_⟩
    exact cal_memUpdateSeconds (f := (· &&& 0x7F#8)) hanswers hticks (.inr rfl)
end

section
/-! PROOFS. What a host command leaves of the device (O50), and every operation without a device (O60). -/

namespace Sys2Proof.Machine

/-! ### Nothing but TICK steps -/

/-- From `s` to `t` the device has done TICK steps and nothing else, those of the first frames of the schedule. -/
def OnlyTicked (s t : State) : Prop :=
  t.par = s.par ∧ ∃ n k, t.regs = (tickTimes n s).regs ∧ t.ticks = s.ticks.drop k

theorem onlyTicked_of_same {s t : State} (hpar : t.par = s.par) (hregs : t.regs = s.regs) (hticks : t.ticks = s.ticks) :
    OnlyTicked s t :=
  ⟨hpar, 0, 0, hregs, hticks⟩

theorem OnlyTicked.refl (s : State) : OnlyTicked s s := onlyTicked_of_same rfl rfl rfl

theorem OnlyTicked.trans {s t u : State} (h : OnlyTicked s t) (h' : OnlyTicked t u) : OnlyTicked s u := by
  obtain ⟨hpar, n, k, hregs, hticks⟩ := h
  obtain ⟨hpar', n', k', hregs', hticks'⟩ := h'
  refine ⟨hpar'.trans hpar, n' + n, k + k', ?_, by rw [hticks', hticks, List.drop_drop]⟩
  simp only [hregs', tickTimes_regs, hregs, hpar, Function.iterate_add_apply]

/-- What comes before a frame is TICK steps. -/
theorem onlyTicked_frameTicks (s : State) : OnlyTicked s (frameTicks s) := by
  cases h : s.ticks with
  | nil => exact onlyTicked_of_same (by simp) (by simp [frameTicks, h]) (by simp [h])
  | cons n rest => exact ⟨by simp, n, 1, by rw [frameTicks_regs_of_cons h, tickTimes_regs], by simp [h]⟩

/-- A TICK step touches the calendar only (47_device_target.md R245). -/
theorem OnlyTicked.sameBesidesCalendar {s t : State} (h : OnlyTicked s t) : SameBesidesCalendar s t := by
  obtain ⟨-, n, k, hregs, -⟩ := h
  rw [SameBesidesCalendar, hregs, tickTimes_regs]
  exact ⟨rfl, rfl, fun _ => rfl⟩

theorem OnlyTicked.cal {s t : State} (h : OnlyTicked s t) :
    ∃ n k, t.regs.cal = (tickTimes n s).regs.cal ∧ t.ticks = s.ticks.drop k := by
  obtain ⟨-, n, k, hregs, hticks⟩ := h
  exact ⟨n, k, congrArg RegFile.cal hregs, hticks⟩

/-- A read frame writes no register (47_device_target.md R220). -/
theorem onlyTicked_memRead (a : Byte) (s : State) : OnlyTicked s (memRead a s).2 :=
  (onlyTicked_frameTicks s).trans
    (onlyTicked_of_same (by simp) (memRead_regs a s) ((memRead_ticks a s).trans (frameTicks_ticks s).symm))

theorem OnlyTicked.memGetDateTime {s t : State} (h : OnlyTicked s t) : OnlyTicked s (memGetDateTime t).2 :=
  memGetDateTime_keeps (fun _ _ hu => hu.trans (onlyTicked_memRead _ _)) h

theorem OnlyTicked.memReread {s t : State} (h : OnlyTicked s t) (n : Nat) (x : Snapshot) :
    OnlyTicked s (memReread n x t).2 := by
  induction n generalizing x t with
  | zero => exact h.memGetDateTime
  | succ n ih =>
    rw [Machine.memReread]
    split
    · exact h.memGetDateTime
    · exact ih h.memGetDateTime _

/-! ### Every host command locks the device or writes nothing (60_exceptions.md R260) -/

/-- Started at rest, the operation leaves a device that listens locked, or has written no register of it. -/
def Ctrl.LocksOrReads {α : Type} (p : Ctrl α) : Prop :=
  ∀ s a t, AtRest s → Listens s → p.run s = .ok (a, t) → t.regs.wp = 0x80#8 ∨ OnlyTicked s t

theorem Ctrl.locksOrReads_done {α : Type} (a : α) : (Ctrl.done a).LocksOrReads := by
  intro s b t _ _ hrun
  cases hrun
  exact .inr (.refl s)

theorem Ctrl.Computes.locksOrReads {α : Type} {p : Ctrl α} {F : State → α × State} (hp : p.Computes F)
    (hF : ∀ s, Listens s → (F s).2.regs.wp = 0x80#8 ∨ OnlyTicked s (F s).2) : p.LocksOrReads := by
  intro s a t hrest hl hrun
  have h := hF s hl
  rw [(hp s hrest).1, Except.ok.injEq] at hrun
  rwa [hrun] at h

theorem Ctrl.LocksOrReads.andThen_done {α β : Type} {p : Ctrl α} (hp : p.LocksOrReads) (g : α → β) :
    (p.andThen fun a => .done (g a)).LocksOrReads := by
  intro s b t hrest hl hrun
  rw [Ctrl.run_andThen] at hrun
  cases hu : p.run s with
  | error r => simp [hu] at hrun
  | ok x =>
    rw [hu] at hrun
    cases hrun
    exact hp s _ _ hrest hl hu

theorem readRegister_locksOrReads (a : Byte) : (readRegister a).LocksOrReads := by
  intro s b t hrest _ hrun
  cases ha : bitOf a 0 with
  | true =>
    have hticked := onlyTicked_memRead a s
    rw [run_readRegister hrest ha, Except.ok.injEq] at hrun
    rw [hrun] at hticked
    exact .inr hticked
  | false =>
    rw [readRegister, if_neg (by simp [ha]), Ctrl.run_outsideContract] at hrun
    cases hrun

/-- A protected write that has a meaning ends with the re-lock frame. -/
theorem writeProtected_locksOrReads (a v : Byte) : (writeProtected a v).LocksOrReads := by
  intro s b t hrest hl hrun
  obtain ⟨-, -, hodd, -, hunmapped⟩ := outOfContractRefused
  have hexec : exec (.wrprot a v) s = .next (respond noResult t) :=
    perform_eq_next.2 ⟨_, _, Ctrl.run_andThen_of_run _ hrun, rfl⟩
  cases ha : bitOf a 0 with
  | true => simp [hodd a v s hrest ha] at hexec
  | false =>
    cases hp : writePlace a with
    | none => simp [hunmapped a v s hrest hl ha hp] at hexec
    | some p =>
      rw [run_writeProtected hrest hp] at hrun
      cases hrun
      exact .inl (memWriteProtected_wp hl a v p)

theorem getField_locksOrReads (f : Field) : (getField f).LocksOrReads := (readRegister_locksOrReads _).andThen_done _

theorem getDateTime_locksOrReads : getDateTime.LocksOrReads :=
  getDateTime_computes.locksOrReads fun _ _ => .inr (OnlyTicked.refl _).memGetDateTime

theorem memStart_wp {s : State} (hl : Listens s) : (memStart s).regs.wp = 0x80#8 :=
  memUpdateSeconds_wp (· &&& 0x7F#8) hl

theorem memStop_wp {s : State} (hl : Listens s) : (memStop s).regs.wp = 0x80#8 :=
  memUpdateSeconds_wp (· ||| 0x80#8) hl

theorem getdtAProg_locksOrReads (par : Params) : (getdtAProg par).LocksOrReads := by
  unfold getdtAProg
  split
  · exact (getDateTime_computes.andThen (rereadUntilEqual_computes _)).locksOrReads fun _ _ =>
      .inr ((OnlyTicked.refl _).memGetDateTime.memReread _ _)
  · exact Ctrl.locksOrReads_done _

theorem setdtAProg_locksOrReads (par : Params) (y mo d w h mi sec : Half) :
    (setdtAProg par y mo d w h mi sec).LocksOrReads := by
  cases hpar : par.hasAtomicDT with
  | true =>
    exact (setdtAProg_computes hpar y mo d w h mi sec).locksOrReads fun _ hl =>
      .inl (memStart_wp (by simpa [memStop_eq] using hl))
  | false =>
    simp only [setdtAProg, hpar]
    exact Ctrl.locksOrReads_done _

/-- No operation but the internal ones makes a bare write frame (60_exceptions.md R260). -/
theorem operation_locksOrReads {par : Params} {i : Instr} {p : Ctrl Response} (hp : operation par i = some p)
    (hinternal : i.isInternal = false) : p.LocksOrReads := by
  cases i <;> cases hp
  case txb | rxb | wrreg => cases hinternal
  case rdreg | getram => exact (readRegister_locksOrReads _).andThen_done _
  case wrprot | setram => exact (writeProtected_locksOrReads _ _).andThen_done _
  case d2b | b2d => exact Ctrl.locksOrReads_done _
  case getSec | getMin | getHr | getDay | getMon | getWday | getYr => exact (getField_locksOrReads _).andThen_done _
  case setSec | setMin | setHr | setDay | setMon | setWday | setYr =>
    exact (writeProtected_locksOrReads _ _).andThen_done _
  case start => exact (startOscillator_computes.locksOrReads fun _ hl => .inl (memStart_wp hl)).andThen_done _
  case stop => exact (stopOscillator_computes.locksOrReads fun _ hl => .inl (memStop_wp hl)).andThen_done _
  case getdt => exact getDateTime_locksOrReads.andThen_done _
  case setdt =>
    exact ((setDateTime_computes _ _ _ _ _ _ _).locksOrReads fun _ hl =>
      .inl (memSetDateTime_wp _ _ _ _ _ _ _ hl)).andThen_done _
  case getdtA => exact getdtAProg_locksOrReads _
  case setdtA => exact setdtAProg_locksOrReads _ _ _ _ _ _ _ _

/-! ### Without a device (60_exceptions.md R252) -/

/-- A line event with no device attached: the TICK steps of the device that is not there go on, and nothing reacts. -/
theorem lineEvent_of_absent {e : LineEvent} {s t : State} {b : Bool} (hl : s.par.link = .absent)
    (he : lineEvent e s = .ok (b, t)) : OnlyTicked s t ∧ t.bus = s.bus := by
  by_cases hrise : e = .cs true
  · subst hrise
    cases he
    split
    · exact ⟨.refl s, rfl⟩
    · refine ⟨(onlyTicked_frameTicks s).trans (onlyTicked_of_same rfl rfl rfl), ?_⟩
      rw [csRise_bus, slaveIdle_of_absent (by simpa using hl), frameTicks_bus]
  · obtain ⟨hregs, hbus, hticks⟩ := lineEvent_of_unheard (.inr hl) hrise he
    exact ⟨onlyTicked_of_same (lineEffect_of_lineEvent he).par hregs hticks, hbus⟩

/-- A run with no device attached: its line events one after another. -/
theorem run_of_absent {α : Type} {p : Ctrl α} {s t : State} {a : α} (hl : s.par.link = .absent)
    (hrun : p.run s = .ok (a, t)) : OnlyTicked s t ∧ t.bus = s.bus := by
  induction p generalizing s with
  | done a =>
    cases hrun
    exact ⟨.refl _, rfl⟩
  | refuse r => cases hrun
  | outside r e k => cases hrun
  | event e k ih =>
    obtain ⟨b, u, he, hrest⟩ := Ctrl.run_event hrun
    obtain ⟨hticked, hbus⟩ := lineEvent_of_absent hl he
    obtain ⟨hticked', hbus'⟩ := ih b (by rwa [hticked.1]) hrest
    exact ⟨hticked.trans hticked', hbus'.trans hbus⟩

/-- A write frame with no device attached ends, whatever its address: nobody refuses it (log entry 20). -/
theorem run_writeFrame_absent (a v : Byte) {s : State} (h : AtRest s) (hl : s.par.link = .absent) :
    ∃ t, (writeFrame a v).run s = .ok ((), t) ∧ AtRest t := by
  have hclk : (csRise (frameTicks s)).clk = false := by simpa using h.2
  have hl' : (csRise (frameTicks s)).par.link = .absent := by simpa using hl
  rw [writeFrame, run_emit_csRise _ h, Ctrl.run_andThen_of_run _ (run_transmit_absent hl' hclk),
    Ctrl.run_andThen_of_run _ (run_transmit_absent (by exact hl') (by exact hclk)),
    run_emit_csFall _ rfl (.inl (by simp [deviceListens, hl]))]
  exact ⟨_, rfl, rfl, hclk⟩

theorem run_writeProtected_absent {a : Byte} (ha : bitOf a 0 = false) (v : Byte) {s : State} (h : AtRest s)
    (hl : s.par.link = .absent) : ∃ t, (writeProtected a v).run s = .ok ((), t) := by
  have hunlock : AtRest (memUnlock s) := atRest_memWrite _ _ _ h
  obtain ⟨t, hwrite, hrest⟩ := run_writeFrame_absent a v hunlock (by simpa using hl)
  refine ⟨memWrite (regWriteAddr .wp) wpLock (.reg .wp) t, ?_⟩
  rw [writeProtected, Ctrl.run_andThen_of_run _ (run_writeRegister h rfl), atWriteAddress_of_even ha,
    Ctrl.run_andThen_of_run _ hwrite, run_writeFrame hrest rfl]

/-- With no device every operation whose address has the direction of its frame ends, mapped or not. -/
theorem operation_ends_absent {i : Instr} {p : Ctrl Response} {s : State} (hp : operation s.par i = some p)
    (h : AtRest s) (hl : s.par.link = .absent) (hread : ∀ a, i = .rdreg a → bitOf a 0 = true)
    (hwrite : ∀ a v, i = .wrreg a v ∨ i = .wrprot a v → bitOf a 0 = false) : ∃ r t, p.run s = .ok (r, t) := by
  by_cases hc : InContract i
  · obtain ⟨r, t, hrun, -⟩ := operation_completes hp hc s h
    exact ⟨r, t, hrun⟩
  · cases i
    case rdreg a => exact (hc (hread a rfl)).elim
    case wrreg a v =>
      cases hp
      obtain ⟨t, hrun, -⟩ := run_writeFrame_absent a v h hl
      rw [← atWriteAddress_of_even (hwrite a v (.inl rfl)) (writeFrame a v)] at hrun
      exact ⟨_, _, Ctrl.run_andThen_of_run _ hrun⟩
    case wrprot a v =>
      cases hp
      obtain ⟨t, hrun⟩ := run_writeProtected_absent (hwrite a v (.inr rfl)) v h hl
      exact ⟨_, _, Ctrl.run_andThen_of_run _ hrun⟩
    case wrRam | rdRam => cases hp
    all_goals exact (hc trivial).elim

/-! ### How many line events an operation performs (41_register_access.md R134) -/

/-- The number of line events does not depend on the state. -/
def Ctrl.FixedLength {α : Type} (p : Ctrl α) : Prop :=
  ∃ n, ∀ s, (p.trace s).length = n

theorem Ctrl.fixedLength_of_trace {α : Type} {p : Ctrl α} {l : List LineEvent} (h : ∀ s, p.trace s = l) :
    p.FixedLength :=
  ⟨l.length, fun s => congrArg List.length (h s)⟩

theorem Ctrl.MakesFrames.fixedLength {α : Type} {p : Ctrl α} {n : Nat} (h : p.MakesFrames n n) : p.FixedLength := by
  refine ⟨52 * n, fun s => ?_⟩
  obtain ⟨-, -, -, -, hlength⟩ := h.isFrames s
  exact hlength

theorem operation_fixedLength {par : Params} {i : Instr} {p : Ctrl Response} (hp : operation par i = some p)
    (hi : i ≠ .getdtA) : p.FixedLength := by
  obtain ⟨hrdreg, hwrreg, hwrprot⟩ := lineEventsForEveryAddress
  cases i <;> cases hp
  case txb v =>
    exact Ctrl.fixedLength_of_trace fun s => (Ctrl.trace_andThen_done _ _ s).trans (transmitByte_emits v s).1
  case rxb => exact Ctrl.fixedLength_of_trace fun s => (Ctrl.trace_andThen_done _ _ s).trans (receiveByte_emits s).1
  case rdreg | getram => exact Ctrl.fixedLength_of_trace (hrdreg _)
  case wrreg => exact Ctrl.fixedLength_of_trace (hwrreg _ _)
  case wrprot | setram => exact Ctrl.fixedLength_of_trace (hwrprot _ _)
  case d2b | b2d => exact Ctrl.fixedLength_of_trace fun _ => rfl
  case getSec | getMin | getHr | getDay | getMon | getWday | getYr =>
    exact ((getField_makesFrames _).andThen_done _).fixedLength
  case setSec | setMin | setHr | setDay | setMon | setWday | setYr =>
    exact Ctrl.fixedLength_of_trace (hwrprot _ _)
  case start => exact (startOscillator_makesFrames.andThen_done _).fixedLength
  case stop => exact (stopOscillator_makesFrames.andThen_done _).fixedLength
  case getdt => exact (getDateTime_makesFrames.andThen_done _).fixedLength
  case setdt => exact ((setDateTime_makesFrames _ _ _ _ _ _ _).andThen_done _).fixedLength
  case getdtA => exact (hi rfl).elim
  case setdtA =>
    cases hpar : par.hasAtomicDT with
    | true => exact (setdtAProg_makesFrames hpar _ _ _ _ _ _ _).fixedLength
    | false =>
      simp only [setdtAProg, hpar]
      exact Ctrl.fixedLength_of_trace fun _ => rfl

/-! ### What a read frame receives where no level arrives (93_implementation_defined.md U2) -/

/-- No level that a device drives arrives: there is none, or the bus is bad and the address is mapped. -/
theorem memRead_drawn {a : Byte} {s : State}
    (h : s.par.link = .absent ∨ s.par.link = .badBus ∧ (readPlace a).isSome = true) :
    (memRead a s).2.draws = s.draws + 8 ∧ ∀ n, n < 8 → bitOf (memRead a s).1 n = Config.anyLevel (s.draws + n) := by
  obtain hl | ⟨hl, hp⟩ := h
  · simp only [memRead, hl]
    exact ⟨by simp, fun n hn => by rw [bitOf_drawSamples _ hn, frameTicks_draws]⟩
  · have hread : (devRead (frameTicks s) a).2 = frameTicks s :=
      ((devRead_snd (frameTicks s) a).resolve_right fun hnone => by simp [hnone.1] at hp).2
    simp only [memRead, hl, hread]
    exact ⟨by simp, fun n hn => by rw [bitOf_drawSamples _ hn, busRead_draws, frameTicks_draws]⟩

end Sys2Proof.Machine

open Sys2Proof Sys2Proof.Machine

/-- Settles O50: an operation of the host ends with the re-lock frame of a protected write or has read only; a device
that is not there is written by none. -/
theorem hostWritesLeaveLocked : Obligations.HostWritesLeaveLocked := by
  intro s t w i hrest hdecode hexec
  obtain ⟨hrow, hinternal, -⟩ := hostDecode_eq_ok_iff.1 hdecode
  obtain ⟨p, hp⟩ := operation_of_decodeOp hrow s.par
  rw [exec_of_operation hp] at hexec
  obtain ⟨r, u, hrun, rfl⟩ := perform_eq_next.1 hexec
  have hlocks : u.regs.wp = 0x80#8 ∨ OnlyTicked s u := by
    by_cases hl : Listens s
    · exact operation_locksOrReads hp hinternal s r u hrest hl hrun
    · exact .inr (run_of_absent (not_not.1 hl) hrun).1
  exact hlocks.imp_right fun hticked => ⟨hticked.sameBesidesCalendar, hticked.cal⟩

/-- Settles O60: the controller's frames are the same whatever the lines lead to; with no device each line event does
nothing but move them, and where no level arrives a sample is a draw. -/
theorem operationsEndWithoutDevice : Obligations.OperationsEndWithoutDevice := by
  refine ⟨fun q i p s t hp hi => ?_, fun i s hrest hl hop hread hwrite => ?_, fun a s hrest ha hdrawn => ?_,
    fun f s hrest hdrawn => ?_⟩
  · obtain ⟨n, hn⟩ := operation_fixedLength hp hi
    rw [hn, hn]
  · obtain ⟨p, hp⟩ := Option.isSome_iff_exists.1 hop
    obtain ⟨r, t, hrun⟩ := operation_ends_absent hp hrest hl hread hwrite
    obtain ⟨hticked, hbus⟩ := run_of_absent hl hrun
    have hlines := (operation_ofAccesses hp).leads
    rw [← atRest_iff.1 hrest] at hlines
    have henv : SameEnvironment s t := Ctrl.run_sameEnvironment hrun
    exact ⟨_, (exec_of_operation hp).trans (perform_eq_next.2 ⟨r, t, hrun, rfl⟩),
      atRest_iff.2 ((hlines.run hrun).trans (atRest_iff.1 hrest)), hbus, hticked.sameBesidesCalendar, henv, hticked.cal⟩
  · obtain ⟨hdraws, hbits⟩ := memRead_drawn hdrawn
    exact ⟨_, _, exec_rdreg hrest ha, rfl, rfl, hdraws, hbits⟩
  · have hmapped : (readPlace (regReadAddr (fieldReg f))).isSome = true := by rw [readPlace_regReadAddr]; rfl
    obtain ⟨hdraws, hbits⟩ := memRead_drawn (hdrawn.imp_right fun hl => ⟨hl, hmapped⟩)
    exact ⟨(memRead (regReadAddr (fieldReg f)) s).1, _, exec_getInstr f hrest, rfl,
      getResult_status (memGet f s).1.1 _, hdraws, hbits⟩
end
